-- ==== Sys2Proof/Word.lean ====
section
/-! DEFINITION. The word types of the core (spec/00_scope.md R8, R9): 32-bit registers and instruction
words, 64-bit products, bytes of the instruction memory, and 4-bit register fields. -/

namespace Sys2Proof

/-- `u32` of R9: a register, an address or an instruction word; arithmetic wraps modulo 2^32. -/
abbrev Word := BitVec 32

/-- `u64` of R9: the result of a long multiply; arithmetic wraps modulo 2^64. -/
abbrev DWord := BitVec 64

/-- One byte of the instruction memory (spec/20_memory.md R63). -/
abbrev Byte := BitVec 8

/-- A register field of an instruction: a 4-bit unsigned index, every value of which is a valid index
(spec/30_encoding.md R107). -/
abbrev RegIdx := BitVec 4

end Sys2Proof
end

