-- ==== Sys2Proof/Syntax.lean ====
section
/-! DEFINITION. The instruction set as syntax: one constructor per row of spec/opcode_table.json. A
constructor carries every bit of its word that the row's pattern does not fix, so that the word can be
written back (`encode`) and a fault can record it (spec/60_exceptions.md R220). Bits the spec gives no
role keep their place and have no name of a meaning (logs 13, 14). -/

namespace Sys2Proof

/-- The sixteen condition codes, `w[31:28]` (spec/30_encoding.md R81, spec/40_step_and_condition.md R124). -/
inductive Cond where
  | eq | ne | cs | cc | mi | pl | vs | vc | hi | ls | ge | lt | gt | le | al | nv
deriving DecidableEq, Repr

/-- The instructions the decoder tells apart (spec/30_encoding.md R82 to R99, R105; rows of R113). The
`unused…` arguments are bits that the row leaves free and gives no role, highest bits first. -/
inductive Instr where
  /-- SWI, SoftwareInterrupt (R83, R201); `comment` is `w[23:0]`, never read. -/
  | swi (cond : Cond) (comment : BitVec 24)
  /-- BL, BranchLink (R84, R102, R152). -/
  | bl (cond : Cond) (offset24 : BitVec 24)
  /-- B, Branch (R85, R102, R151). -/
  | b (cond : Cond) (offset24 : BitVec 24)
  /-- BX, BranchExchange (R86, R103, R154). -/
  | bx (cond : Cond) (rm : RegIdx)
  /-- LDM, LoadMultiple (R87, R202); free bits `w[24:21]`, `w[19:0]`. -/
  | ldm (cond : Cond) (unusedHi : BitVec 4) (unusedLo : BitVec 20)
  /-- STM, StoreMultiple (R88, R203); free bits `w[24:21]`, `w[19:0]`. -/
  | stm (cond : Cond) (unusedHi : BitVec 4) (unusedLo : BitVec 20)
  /-- LDR, LoadWord (R89, R204); free bits `w[25:21]`, `w[19:0]`. -/
  | ldr (cond : Cond) (unusedHi : BitVec 5) (unusedLo : BitVec 20)
  /-- STR, StoreWord (R90, R205); free bits `w[25:21]`, `w[19:0]`. -/
  | str (cond : Cond) (unusedHi : BitVec 5) (unusedLo : BitVec 20)
  /-- LDRH, LoadHalfword (R91, R206); free bits `w[24:21]`, `w[19:8]`, `w[3:0]`. -/
  | ldrh (cond : Cond) (unusedHi : BitVec 4) (unusedMid : BitVec 12) (unusedLo : BitVec 4)
  /-- LDRSB, LoadSignedByte (R92, R207); free bits as LDRH. -/
  | ldrsb (cond : Cond) (unusedHi : BitVec 4) (unusedMid : BitVec 12) (unusedLo : BitVec 4)
  /-- LDRSH, LoadSignedHalfword (R93, R208); free bits as LDRH. -/
  | ldrsh (cond : Cond) (unusedHi : BitVec 4) (unusedMid : BitVec 12) (unusedLo : BitVec 4)
  /-- STRH, StoreHalfword (R94, R209); free bits as LDRH. -/
  | strh (cond : Cond) (unusedHi : BitVec 4) (unusedMid : BitVec 12) (unusedLo : BitVec 4)
  /-- MRS, MoveStatusToRegister (R95, R210); free bits `w[22]`, `w[15:12]`. -/
  | mrs (cond : Cond) (unused22 : BitVec 1) (unusedLo : BitVec 4)
  /-- MSR, MoveRegisterToStatus (R96, R211); free bits `w[25]`, `w[22]`, `w[19:16]`, `w[11:0]`. -/
  | msr (cond : Cond) (unused25 : BitVec 1) (unused22 : BitVec 1) (unusedMid : BitVec 4) (unusedLo : BitVec 12)
  /-- SWP, Swap (R97, R212); free bits `w[22]`, `w[19:12]`, `w[3:0]`. -/
  | swp (cond : Cond) (unused22 : BitVec 1) (unusedMid : BitVec 8) (unusedLo : BitVec 4)
  /-- MUL (R105, R171); `unusedRn` is `w[15:12]`, ignored (R108). -/
  | mul (cond : Cond) (s : Bool) (rd : RegIdx) (unusedRn : BitVec 4) (rs rm : RegIdx)
  /-- MLA (R105, R172). -/
  | mla (cond : Cond) (s : Bool) (rd rn rs rm : RegIdx)
  /-- UMAAL, unsupported (R177). -/
  | umaal (cond : Cond) (s : Bool) (rdHi rdLo rs rm : RegIdx)
  /-- Sub-operation 0b0011, unnamed, unsupported (R178); the operand fields have no role. -/
  | mulSub0011 (cond : Cond) (s : Bool) (unusedD unusedN unusedS unusedM : BitVec 4)
  /-- UMULL (R105, R173). -/
  | umull (cond : Cond) (s : Bool) (rdHi rdLo rs rm : RegIdx)
  /-- UMLAL (R105, R174). -/
  | umlal (cond : Cond) (s : Bool) (rdHi rdLo rs rm : RegIdx)
  /-- SMULL (R105, R175). -/
  | smull (cond : Cond) (s : Bool) (rdHi rdLo rs rm : RegIdx)
  /-- SMLAL (R105, R176). -/
  | smlal (cond : Cond) (s : Bool) (rdHi rdLo rs rm : RegIdx)
  /-- Sub-operation 0b1000, unnamed, unsupported (R178). -/
  | mulSub1000 (cond : Cond) (s : Bool) (unusedD unusedN unusedS unusedM : BitVec 4)
  /-- Sub-operation 0b1001, unnamed, unsupported (R178). -/
  | mulSub1001 (cond : Cond) (s : Bool) (unusedD unusedN unusedS unusedM : BitVec 4)
  /-- Sub-operation 0b1010, unnamed, unsupported (R178). -/
  | mulSub1010 (cond : Cond) (s : Bool) (unusedD unusedN unusedS unusedM : BitVec 4)
  /-- Sub-operation 0b1011, unnamed, unsupported (R178). -/
  | mulSub1011 (cond : Cond) (s : Bool) (unusedD unusedN unusedS unusedM : BitVec 4)
  /-- Sub-operation 0b1100, unnamed, unsupported (R178). -/
  | mulSub1100 (cond : Cond) (s : Bool) (unusedD unusedN unusedS unusedM : BitVec 4)
  /-- Sub-operation 0b1101, unnamed, unsupported (R178). -/
  | mulSub1101 (cond : Cond) (s : Bool) (unusedD unusedN unusedS unusedM : BitVec 4)
  /-- Sub-operation 0b1110, unnamed, unsupported (R178). -/
  | mulSub1110 (cond : Cond) (s : Bool) (unusedD unusedN unusedS unusedM : BitVec 4)
  /-- Sub-operation 0b1111, unnamed, unsupported (R178). -/
  | mulSub1111 (cond : Cond) (s : Bool) (unusedD unusedN unusedS unusedM : BitVec 4)
  /-- DP, DataProcessing, the fallback class (R99, R213); free bits `w[25:0]`. -/
  | dp (cond : Cond) (unused : BitVec 26)
deriving DecidableEq, Repr

/-- The condition field of an instruction; every instruction carries one (R81, R123). -/
def Instr.cond : Instr → Cond
  | .swi c _ => c
  | .bl c _ => c
  | .b c _ => c
  | .bx c _ => c
  | .ldm c _ _ => c
  | .stm c _ _ => c
  | .ldr c _ _ => c
  | .str c _ _ => c
  | .ldrh c _ _ _ => c
  | .ldrsb c _ _ _ => c
  | .ldrsh c _ _ _ => c
  | .strh c _ _ _ => c
  | .mrs c _ _ => c
  | .msr c _ _ _ _ => c
  | .swp c _ _ _ => c
  | .mul c _ _ _ _ _ => c
  | .mla c _ _ _ _ _ => c
  | .umaal c _ _ _ _ _ => c
  | .mulSub0011 c _ _ _ _ _ => c
  | .umull c _ _ _ _ _ => c
  | .umlal c _ _ _ _ _ => c
  | .smull c _ _ _ _ _ => c
  | .smlal c _ _ _ _ _ => c
  | .mulSub1000 c _ _ _ _ _ => c
  | .mulSub1001 c _ _ _ _ _ => c
  | .mulSub1010 c _ _ _ _ _ => c
  | .mulSub1011 c _ _ _ _ _ => c
  | .mulSub1100 c _ _ _ _ _ => c
  | .mulSub1101 c _ _ _ _ _ => c
  | .mulSub1110 c _ _ _ _ _ => c
  | .mulSub1111 c _ _ _ _ _ => c
  | .dp c _ => c

end Sys2Proof
end

