-- ==== Sys2Proof/WellFormed.lean ====
section
/-! DEFINITION. Which terms of `Instr` are instructions. A constructor's fixed bits cannot be wrong; what
can be wrong is that an EARLIER pattern of the decoder takes the word (spec/30_encoding.md R100). The checks
below are the subtractions of the effective sets in R96 (MSR), R98 (the multiply family) and R99 (the
fallback), written from those rules and not from the decoder. -/

namespace Sys2Proof

/-- R96: the MSR word is a BranchExchange word, `w[27:4] = 0x12FFF1`. -/
def msrIsBx (unused25 unused22 : BitVec 1) (unusedMid : BitVec 4) (unusedLo : BitVec 12) : Bool :=
  unused25 == 0 && unused22 == 0 && unusedMid == 0xF && unusedLo.extractLsb' 4 8 == 0xF1

/-- R96: the MSR word is a StoreHalfword word, `w[25] = 0` and `w[7:4] = 0b1011`. -/
def msrIsStrh (unused25 : BitVec 1) (unusedLo : BitVec 12) : Bool :=
  unused25 == 0 && unusedLo.extractLsb' 4 4 == 0b1011

/-- R98: a multiply word with `w[24:23] = 0b10` and `w[21] = 1` is a MoveRegisterToStatus word when
`w[20] = 0` and `w[15:12] = 0b1111`. -/
def multiplyIsMsr (s : Bool) (unusedN : BitVec 4) : Bool := !s && unusedN == 0b1111

/-- R98: a multiply word with `w[24:23] = 0b10` and `w[21] = 0` is a Swap word when `w[20] = 0` and
`w[11:8] = 0`. -/
def multiplyIsSwp (s : Bool) (unusedS : BitVec 4) : Bool := !s && unusedS == 0

/-- R99: the fallback word, `w[25:0]` given, is a BranchExchange word (pattern 4). -/
def dpIsBx (u : BitVec 26) : Bool := u.extractLsb' 4 22 == 0x12FFF1

/-- R99: it is a word of one of the four halfword and signed-byte patterns 9 to 12. -/
def dpIsHalfword (u : BitVec 26) : Bool :=
  u.extractLsb' 25 1 == 0 &&
    (u.extractLsb' 4 4 == 0b1011 ||
      (u.extractLsb' 20 1 == 1 && (u.extractLsb' 4 4 == 0b1101 || u.extractLsb' 4 4 == 0b1111)))

/-- R99: it is a MoveStatusToRegister word (pattern 13). -/
def dpIsMrs (u : BitVec 26) : Bool :=
  u.extractLsb' 23 3 == 0b010 && u.extractLsb' 20 2 == 0b00 && u.extractLsb' 16 4 == 0b1111 &&
    u.extractLsb' 0 12 == 0

/-- R99: it is a MoveRegisterToStatus word (pattern 14). -/
def dpIsMsr (u : BitVec 26) : Bool :=
  u.extractLsb' 23 2 == 0b10 && u.extractLsb' 20 2 == 0b10 && u.extractLsb' 12 4 == 0b1111

/-- R99: it is a word of the Swap or the MultiplyFamily pattern (15, 16; every Swap word matches 16, R100). -/
def dpIsMultiply (u : BitVec 26) : Bool :=
  u.extractLsb' 25 1 == 0 && u.extractLsb' 4 4 == 0b1001

/-- An instruction is well formed when no earlier pattern of the decoder takes its word. -/
def Instr.wf : Instr → Bool
  | .swi _ _ => true
  | .bl _ _ => true
  | .b _ _ => true
  | .bx _ _ => true
  | .ldm _ _ _ => true
  | .stm _ _ _ => true
  | .ldr _ _ _ => true
  | .str _ _ _ => true
  | .ldrh _ _ _ _ => true
  | .ldrsb _ _ _ _ => true
  | .ldrsh _ _ _ _ => true
  | .strh _ _ _ _ => true
  | .mrs _ _ _ => true
  | .msr _ u25 u22 mid lo => !msrIsBx u25 u22 mid lo && !msrIsStrh u25 lo
  | .swp _ _ _ _ => true
  | .mul _ _ _ _ _ _ => true
  | .mla _ _ _ _ _ _ => true
  | .umaal _ _ _ _ _ _ => true
  | .mulSub0011 _ _ _ _ _ _ => true
  | .umull _ _ _ _ _ _ => true
  | .umlal _ _ _ _ _ _ => true
  | .smull _ _ _ _ _ _ => true
  | .smlal _ _ _ _ _ _ => true
  | .mulSub1000 _ s _ _ rs _ => !multiplyIsSwp s rs
  | .mulSub1001 _ s _ rn _ _ => !multiplyIsMsr s rn
  | .mulSub1010 _ s _ _ rs _ => !multiplyIsSwp s rs
  | .mulSub1011 _ s _ rn _ _ => !multiplyIsMsr s rn
  | .mulSub1100 _ _ _ _ _ _ => true
  | .mulSub1101 _ _ _ _ _ _ => true
  | .mulSub1110 _ _ _ _ _ _ => true
  | .mulSub1111 _ _ _ _ _ _ => true
  | .dp _ u => !dpIsBx u && !dpIsHalfword u && !dpIsMrs u && !dpIsMsr u && !dpIsMultiply u

end Sys2Proof
end

