-- ==== Sys2Proof/Decode.lean ====
section
/-! DEFINITION. The decoder and the encoder. Decoding is the seventeen masked comparisons of
spec/30_encoding.md R82 in their order, first match wins, then the fields of R102 to R105 and, for
MultiplyFamily, the sub-operation of spec/42_multiply.md R170. It is total on 32-bit words and rejects the
words that match no pattern by name (R104). The encoder puts each row's fields back around its VALUE. The
byte order helpers of the sequencer's instruction memory stand here too (spec/20_memory.md R63). -/

namespace Sys2Proof

/-- The seventeen categories of R82. -/
inductive Category where
  | softwareInterrupt
  | branchLink
  | branch
  | branchExchange
  | loadMultiple
  | storeMultiple
  | loadWord
  | storeWord
  | loadHalfword
  | loadSignedByte
  | loadSignedHalfword
  | storeHalfword
  | moveStatusToRegister
  | moveRegisterToStatus
  | swap
  | multiplyFamily
  | dataProcessing
deriving DecidableEq, Repr

/-- One masked comparison of the decoder: `(w & mask) = value` gives `category`. -/
structure Pattern where
  mask : Word
  value : Word
  category : Category
deriving DecidableEq, Repr

/-- The comparison of R82. -/
def Pattern.matches (p : Pattern) (w : Word) : Bool := w &&& p.mask == p.value

/-- `MASK[k]`, `VALUE[k]`, `CATEGORY[k]` for k = 1 to 17, in the order of R82 (rules R83 to R99). -/
def patterns : List Pattern :=
  [ ⟨0x0F00_0000, 0x0F00_0000, .softwareInterrupt⟩
  , ⟨0x0F00_0000, 0x0B00_0000, .branchLink⟩
  , ⟨0x0F00_0000, 0x0A00_0000, .branch⟩
  , ⟨0x0FFF_FFF0, 0x012F_FF10, .branchExchange⟩
  , ⟨0x0E10_0000, 0x0810_0000, .loadMultiple⟩
  , ⟨0x0E10_0000, 0x0800_0000, .storeMultiple⟩
  , ⟨0x0C10_0000, 0x0410_0000, .loadWord⟩
  , ⟨0x0C10_0000, 0x0400_0000, .storeWord⟩
  , ⟨0x0E10_00F0, 0x0010_00B0, .loadHalfword⟩
  , ⟨0x0E10_00F0, 0x0010_00D0, .loadSignedByte⟩
  , ⟨0x0E10_00F0, 0x0010_00F0, .loadSignedHalfword⟩
  , ⟨0x0E10_00F0, 0x0000_00B0, .storeHalfword⟩
  , ⟨0x0FBF_0FFF, 0x010F_0000, .moveStatusToRegister⟩
  , ⟨0x0DB0_F000, 0x0120_F000, .moveRegisterToStatus⟩
  , ⟨0x0FB0_0FF0, 0x0100_0090, .swap⟩
  , ⟨0x0E00_00F0, 0x0000_0090, .multiplyFamily⟩
  , ⟨0x0C00_0000, 0x0000_0000, .dataProcessing⟩ ]

/-- R82, `decode(w)` as far as the category: the first pattern that matches, in strict order. -/
def classify (w : Word) : Option Category := (patterns.find? (·.matches w)).map (·.category)

/-- The condition a 4-bit code names (spec/40_step_and_condition.md R124). -/
def Cond.ofBits (c : BitVec 4) : Cond :=
  match c.toNat with
  | 0 => .eq
  | 1 => .ne
  | 2 => .cs
  | 3 => .cc
  | 4 => .mi
  | 5 => .pl
  | 6 => .vs
  | 7 => .vc
  | 8 => .hi
  | 9 => .ls
  | 10 => .ge
  | 11 => .lt
  | 12 => .gt
  | 13 => .le
  | 14 => .al
  | _ => .nv

/-- The 4-bit code of a condition (R124). -/
def Cond.bits : Cond → BitVec 4
  | .eq => 0
  | .ne => 1
  | .cs => 2
  | .cc => 3
  | .mi => 4
  | .pl => 5
  | .vs => 6
  | .vc => 7
  | .hi => 8
  | .ls => 9
  | .ge => 10
  | .lt => 11
  | .gt => 12
  | .le => 13
  | .al => 14
  | .nv => 15

/-- The condition field `w[31:28]` (R81; log 25). -/
def condOf (w : Word) : Cond := Cond.ofBits (w.extractLsb' 28 4)

/-- The S bit `w[20]` of the multiply format (R105). -/
def sBit (w : Word) : Bool := w.getLsbD 20

/-- The field positions of R105: `w[19:16]`, Rd or RdHi. -/
def fieldD (w : Word) : BitVec 4 := w.extractLsb' 16 4

/-- `w[15:12]`, Rn or RdLo (R105). -/
def fieldN (w : Word) : BitVec 4 := w.extractLsb' 12 4

/-- `w[11:8]`, Rs (R105). -/
def fieldS (w : Word) : BitVec 4 := w.extractLsb' 8 4

/-- `w[3:0]`, Rm (R103, R105). -/
def fieldM (w : Word) : BitVec 4 := w.extractLsb' 0 4

/-- Dispatch of a MultiplyFamily word on `w[24:21]` (R105, spec/42_multiply.md R170; log 27). -/
def readMultiply (w : Word) : Instr :=
  match (w.extractLsb' 21 4).toNat with
  | 0 => .mul (condOf w) (sBit w) (fieldD w) (fieldN w) (fieldS w) (fieldM w)
  | 1 => .mla (condOf w) (sBit w) (fieldD w) (fieldN w) (fieldS w) (fieldM w)
  | 2 => .umaal (condOf w) (sBit w) (fieldD w) (fieldN w) (fieldS w) (fieldM w)
  | 3 => .mulSub0011 (condOf w) (sBit w) (fieldD w) (fieldN w) (fieldS w) (fieldM w)
  | 4 => .umull (condOf w) (sBit w) (fieldD w) (fieldN w) (fieldS w) (fieldM w)
  | 5 => .umlal (condOf w) (sBit w) (fieldD w) (fieldN w) (fieldS w) (fieldM w)
  | 6 => .smull (condOf w) (sBit w) (fieldD w) (fieldN w) (fieldS w) (fieldM w)
  | 7 => .smlal (condOf w) (sBit w) (fieldD w) (fieldN w) (fieldS w) (fieldM w)
  | 8 => .mulSub1000 (condOf w) (sBit w) (fieldD w) (fieldN w) (fieldS w) (fieldM w)
  | 9 => .mulSub1001 (condOf w) (sBit w) (fieldD w) (fieldN w) (fieldS w) (fieldM w)
  | 10 => .mulSub1010 (condOf w) (sBit w) (fieldD w) (fieldN w) (fieldS w) (fieldM w)
  | 11 => .mulSub1011 (condOf w) (sBit w) (fieldD w) (fieldN w) (fieldS w) (fieldM w)
  | 12 => .mulSub1100 (condOf w) (sBit w) (fieldD w) (fieldN w) (fieldS w) (fieldM w)
  | 13 => .mulSub1101 (condOf w) (sBit w) (fieldD w) (fieldN w) (fieldS w) (fieldM w)
  | 14 => .mulSub1110 (condOf w) (sBit w) (fieldD w) (fieldN w) (fieldS w) (fieldM w)
  | _ => .mulSub1111 (condOf w) (sBit w) (fieldD w) (fieldN w) (fieldS w) (fieldM w)

/-- The instruction of a word whose category is known: its fields and its free bits. -/
def readInstr (w : Word) : Category → Instr
  | .softwareInterrupt => .swi (condOf w) (w.extractLsb' 0 24)
  | .branchLink => .bl (condOf w) (w.extractLsb' 0 24)
  | .branch => .b (condOf w) (w.extractLsb' 0 24)
  | .branchExchange => .bx (condOf w) (fieldM w)
  | .loadMultiple => .ldm (condOf w) (w.extractLsb' 21 4) (w.extractLsb' 0 20)
  | .storeMultiple => .stm (condOf w) (w.extractLsb' 21 4) (w.extractLsb' 0 20)
  | .loadWord => .ldr (condOf w) (w.extractLsb' 21 5) (w.extractLsb' 0 20)
  | .storeWord => .str (condOf w) (w.extractLsb' 21 5) (w.extractLsb' 0 20)
  | .loadHalfword => .ldrh (condOf w) (w.extractLsb' 21 4) (w.extractLsb' 8 12) (w.extractLsb' 0 4)
  | .loadSignedByte => .ldrsb (condOf w) (w.extractLsb' 21 4) (w.extractLsb' 8 12) (w.extractLsb' 0 4)
  | .loadSignedHalfword => .ldrsh (condOf w) (w.extractLsb' 21 4) (w.extractLsb' 8 12) (w.extractLsb' 0 4)
  | .storeHalfword => .strh (condOf w) (w.extractLsb' 21 4) (w.extractLsb' 8 12) (w.extractLsb' 0 4)
  | .moveStatusToRegister => .mrs (condOf w) (w.extractLsb' 22 1) (w.extractLsb' 12 4)
  | .moveRegisterToStatus =>
    .msr (condOf w) (w.extractLsb' 25 1) (w.extractLsb' 22 1) (w.extractLsb' 16 4) (w.extractLsb' 0 12)
  | .swap => .swp (condOf w) (w.extractLsb' 22 1) (w.extractLsb' 12 8) (w.extractLsb' 0 4)
  | .multiplyFamily => readMultiply w
  | .dataProcessing => .dp (condOf w) (w.extractLsb' 0 26)

/-- Why a word is no instruction. -/
inductive DecodeError where
  /-- No pattern matches: `w[27:24]` is 0b1100, 0b1101 or 0b1110 (R104). -/
  | unrecognizedInstruction (word : Word)
deriving DecidableEq, Repr

/-- The decoder, a function of the word alone (R80, R82). -/
def decode (w : Word) : Except DecodeError Instr :=
  match classify w with
  | some c => .ok (readInstr w c)
  | none => .error (.unrecognizedInstruction w)

/-- The word whose bits from `lo` upward are the field `f` and whose other bits are zero. -/
def place {n : Nat} (lo : Nat) (f : BitVec n) : Word := f.setWidth 32 <<< lo

/-- A word of the multiply format (R105): the pattern's value, the sub-operation and the fields. -/
def encodeMultiply (c : Cond) (sub : BitVec 4) (s : Bool) (d n rs rm : BitVec 4) : Word :=
  0x0000_0090 ||| place 28 c.bits ||| place 21 sub ||| place 20 (BitVec.ofBool s) ||| place 16 d |||
    place 12 n ||| place 8 rs ||| place 0 rm

/-- The encoder: each row's VALUE (R83 to R99) with the instruction's fields and free bits put in place. -/
def encode : Instr → Word
  | .swi c k => 0x0F00_0000 ||| place 28 c.bits ||| place 0 k
  | .bl c off => 0x0B00_0000 ||| place 28 c.bits ||| place 0 off
  | .b c off => 0x0A00_0000 ||| place 28 c.bits ||| place 0 off
  | .bx c rm => 0x012F_FF10 ||| place 28 c.bits ||| place 0 rm
  | .ldm c u l => 0x0810_0000 ||| place 28 c.bits ||| place 21 u ||| place 0 l
  | .stm c u l => 0x0800_0000 ||| place 28 c.bits ||| place 21 u ||| place 0 l
  | .ldr c u l => 0x0410_0000 ||| place 28 c.bits ||| place 21 u ||| place 0 l
  | .str c u l => 0x0400_0000 ||| place 28 c.bits ||| place 21 u ||| place 0 l
  | .ldrh c u m l => 0x0010_00B0 ||| place 28 c.bits ||| place 21 u ||| place 8 m ||| place 0 l
  | .ldrsb c u m l => 0x0010_00D0 ||| place 28 c.bits ||| place 21 u ||| place 8 m ||| place 0 l
  | .ldrsh c u m l => 0x0010_00F0 ||| place 28 c.bits ||| place 21 u ||| place 8 m ||| place 0 l
  | .strh c u m l => 0x0000_00B0 ||| place 28 c.bits ||| place 21 u ||| place 8 m ||| place 0 l
  | .mrs c u l => 0x010F_0000 ||| place 28 c.bits ||| place 22 u ||| place 12 l
  | .msr c u25 u22 m l =>
    0x0120_F000 ||| place 28 c.bits ||| place 25 u25 ||| place 22 u22 ||| place 16 m ||| place 0 l
  | .swp c u m l => 0x0100_0090 ||| place 28 c.bits ||| place 22 u ||| place 12 m ||| place 0 l
  | .mul c s d n rs rm => encodeMultiply c 0b0000 s d n rs rm
  | .mla c s d n rs rm => encodeMultiply c 0b0001 s d n rs rm
  | .umaal c s d n rs rm => encodeMultiply c 0b0010 s d n rs rm
  | .mulSub0011 c s d n rs rm => encodeMultiply c 0b0011 s d n rs rm
  | .umull c s d n rs rm => encodeMultiply c 0b0100 s d n rs rm
  | .umlal c s d n rs rm => encodeMultiply c 0b0101 s d n rs rm
  | .smull c s d n rs rm => encodeMultiply c 0b0110 s d n rs rm
  | .smlal c s d n rs rm => encodeMultiply c 0b0111 s d n rs rm
  | .mulSub1000 c s d n rs rm => encodeMultiply c 0b1000 s d n rs rm
  | .mulSub1001 c s d n rs rm => encodeMultiply c 0b1001 s d n rs rm
  | .mulSub1010 c s d n rs rm => encodeMultiply c 0b1010 s d n rs rm
  | .mulSub1011 c s d n rs rm => encodeMultiply c 0b1011 s d n rs rm
  | .mulSub1100 c s d n rs rm => encodeMultiply c 0b1100 s d n rs rm
  | .mulSub1101 c s d n rs rm => encodeMultiply c 0b1101 s d n rs rm
  | .mulSub1110 c s d n rs rm => encodeMultiply c 0b1110 s d n rs rm
  | .mulSub1111 c s d n rs rm => encodeMultiply c 0b1111 s d n rs rm
  | .dp c u => 0x0000_0000 ||| place 28 c.bits ||| place 0 u

/-- The category the opcode table gives an instruction (R113). -/
def Instr.category : Instr → Category
  | .swi _ _ => .softwareInterrupt
  | .bl _ _ => .branchLink
  | .b _ _ => .branch
  | .bx _ _ => .branchExchange
  | .ldm _ _ _ => .loadMultiple
  | .stm _ _ _ => .storeMultiple
  | .ldr _ _ _ => .loadWord
  | .str _ _ _ => .storeWord
  | .ldrh _ _ _ _ => .loadHalfword
  | .ldrsb _ _ _ _ => .loadSignedByte
  | .ldrsh _ _ _ _ => .loadSignedHalfword
  | .strh _ _ _ _ => .storeHalfword
  | .mrs _ _ _ => .moveStatusToRegister
  | .msr _ _ _ _ _ => .moveRegisterToStatus
  | .swp _ _ _ _ => .swap
  | .mul _ _ _ _ _ _ => .multiplyFamily
  | .mla _ _ _ _ _ _ => .multiplyFamily
  | .umaal _ _ _ _ _ _ => .multiplyFamily
  | .mulSub0011 _ _ _ _ _ _ => .multiplyFamily
  | .umull _ _ _ _ _ _ => .multiplyFamily
  | .umlal _ _ _ _ _ _ => .multiplyFamily
  | .smull _ _ _ _ _ _ => .multiplyFamily
  | .smlal _ _ _ _ _ _ => .multiplyFamily
  | .mulSub1000 _ _ _ _ _ _ => .multiplyFamily
  | .mulSub1001 _ _ _ _ _ _ => .multiplyFamily
  | .mulSub1010 _ _ _ _ _ _ => .multiplyFamily
  | .mulSub1011 _ _ _ _ _ _ => .multiplyFamily
  | .mulSub1100 _ _ _ _ _ _ => .multiplyFamily
  | .mulSub1101 _ _ _ _ _ _ => .multiplyFamily
  | .mulSub1110 _ _ _ _ _ _ => .multiplyFamily
  | .mulSub1111 _ _ _ _ _ _ => .multiplyFamily
  | .dp _ _ => .dataProcessing

/-- R63: the word at an address from its four bytes, the byte at the lowest address first (log 5). -/
def wordOfBytes (b0 b1 b2 b3 : Byte) : Word := place 0 b0 ||| place 8 b1 ||| place 16 b2 ||| place 24 b3

/-- The byte of a word that stands `k` addresses above the word's own address (R63). -/
def byteOfWord (w : Word) (k : Nat) : Byte := w.extractLsb' (8 * k) 8

/-- A word from its bits as spec/opcode_table.json numbers them, of which only the lowest `nbits` count. -/
def tableWord (nbits w : Nat) : Word := BitVec.ofNat 32 (w % 2 ^ nbits)

/-- What the decoder reads from an instruction given as the opcode table gives it. -/
def decodeTableWord (nbits w : Nat) : Option Instr := (decode (tableWord nbits w)).toOption

end Sys2Proof
end

