-- ==== Sys2Proof/Config.lean ====
section
/-! DEFINITION. What the spec leaves to the implementation (spec/00_scope.md R6): the OPEN parameters as
one structure of plain data, an argument of `State.resetWith`, and the decided constants. The spec has no
free value that arises while the machine runs (spec/93_implementation_defined.md, rule for a model), so
nothing here is opaque. -/

namespace Sys2Proof

/-- The instruction memory as plain data: the listed bytes, addresses strictly rising
(`Machine.Memory.wf`). The sequencer's `IMEM` of spec/20_memory.md R66 built from bytes (R63; log 5). -/
abbrev Memory := List Host.Cell

/-- The OPEN parameters of R6: `GPR_RESET` (31 words, in the four groups of spec/10_state.md R20),
`CPSR_RESET_RSVD` (22 bits), `SPSR_RESET` (6 words) and `IMEM`. A statement about reset is made for every
value of this structure. -/
structure OpenParams where
  /-- `GPR_RESET`, the words behind r0 to r7. -/
  gprLo : Vector Word 8
  /-- `GPR_RESET`, the words behind both banks of r8 to r12. -/
  gprMid : Vector Word 10
  /-- `GPR_RESET`, the words behind the six banks of r13 and r14. -/
  gprHi : Vector Word 12
  /-- `GPR_RESET`, the word behind r15. -/
  gprPc : Word
  /-- `CPSR_RESET_RSVD`, status bits 27 to 6. -/
  cpsrRsvd : BitVec 22
  /-- `SPSR_RESET`. -/
  spsr : Vector Word 6
  /-- `IMEM`. -/
  imem : Memory
deriving DecidableEq, Repr

/-- DESIGN CHOICE (logs 1, 2, 3, 6; unsafe): the value of the OPEN parameters behind the one state
`State.reset`: every word zero and no memory listed. The spec states no value. -/
def OpenParams.zero : OpenParams where
  gprLo := Vector.replicate 8 0
  gprMid := Vector.replicate 10 0
  gprHi := Vector.replicate 12 0
  gprPc := 0
  cpsrRsvd := 0
  spsr := Vector.replicate 6 0
  imem := []

/-- `RESET_MODE` of R6: the mode field after reset, Supervisor (spec/92_eei_decisions.md D1; log 4). -/
def resetModeBits : BitVec 5 := 0b10011

/-- `PC_STEP` of R6: what the sequencer adds to r15 after a step that did not write it (D15; log 16). -/
def pcStep : Word := 4

end Sys2Proof
end

