-- ==== Sys2Proof/Machine/State.lean ====
section
/-! DEFINITION. The whole state of the core (spec/10_state.md R20) with the sequencer's two additions, the
`halted` bit (R54) and the instruction memory (spec/20_memory.md R66), as plain data; the reasons a step can
stop (spec/60_exceptions.md R220, R226); and the state after reset (spec/70_reset_and_hazards.md R251). -/

namespace Sys2Proof.Machine

/-- The seven privilege modes (spec/10_state.md R37, spec/60_exceptions.md R232). -/
inductive Mode where
  | user | fiq | irq | supervisor | abort | undefined | system
deriving DecidableEq, Repr

/-- The two instruction-set states (R36). -/
inductive InstrSet where
  | primary | alternate
deriving DecidableEq, Repr

/-- The 31 physical general words of R20, by the spec's names `P_lo[k]`, `P_mid[k]`, `P_hi[k]`, `P_pc`. -/
inductive PhysReg where
  | lo (k : Fin 8)
  | mid (k : Fin 10)
  | hi (k : Fin 12)
  | pc
deriving DecidableEq, Repr

/-- The four fatal errors of spec/60_exceptions.md R220, each with what it records (spec/00_scope.md R12,
spec/92_eei_decisions.md D27). Each is the hardware's own behaviour as the spec gives it; ending the run
there is safe. -/
inductive Fault where
  /-- Raised by the decoder, for a word that matches no pattern, whatever its condition (R221). Safe. -/
  | unrecognizedInstruction (word : Word)
  /-- Raised by the dispatcher when the condition passes, for the thirteen categories without a handler, and
  with the sub-operation field for UMAAL and the nine unnamed sub-operations (R222). Safe. -/
  | unsupportedOperation (word : Word) (field : Option (BitVec 4))
  /-- Raised by the register ports alone, for an index outside 0 to 15 (R223). Safe. -/
  | invalidRegisterIndex (index : Nat)
  /-- Raised by every register access under an invalid mode field (R224, spec/10_state.md R27), with the
  instruction word in a step and without one at a host port (log 10). Safe. -/
  | invalidMode (word : Option Word) (field : BitVec 5)
deriving DecidableEq, Repr

/-- The steps to which the spec gives no meaning (spec/60_exceptions.md R226). A refusal ends the run and
nothing is claimed through it, so each is safe. -/
inductive Refusal where
  /-- Raised by `exec` for an instruction that has no meaning yet; no arm uses it. Safe. -/
  | notModelled (mnemonic : String)
  /-- Raised before decode when `CPSR[5] = 1` (spec/40_step_and_condition.md R122). Safe. -/
  | alternateState
  /-- Raised by the four long multiplies when RdHi = RdLo, before any read (spec/42_multiply.md R184). Safe. -/
  | longMultiplySameDestination
  /-- Raised by the sequencer when `r15[1:0]` is not 0 (spec/20_memory.md R67). Safe. -/
  | misalignedFetch
  /-- Raised by the sequencer where `IMEM` has no word (R67). Safe. -/
  | noInstruction
  /-- Raised by a step or a port action after a run has ended (spec/00_scope.md R12, R67; log 8). Safe. -/
  | halted
deriving DecidableEq, Repr

/-- The state of the machine. -/
structure State where
  /-- `P_lo[0..7]`: r0 to r7 (spec/10_state.md R22). -/
  pLo : Vector Word 8
  /-- `P_mid[0..9]`: r8 to r12, two banks (R23). -/
  pMid : Vector Word 10
  /-- `P_hi[0..11]`: r13 and r14, six banks (R24). -/
  pHi : Vector Word 12
  /-- `P_pc`: r15, the program counter (R25, R32). -/
  pPc : Word
  /-- `CPSR`: the current Status Register, whole (R35). -/
  cpsr : Word
  /-- `SPSR[0..5]`: the Saved Status Register slots (R43). -/
  spsr : Vector Word 6
  /-- The bookkeeping bit `halted` (R54; log 8). -/
  halted : Bool
  /-- `IMEM`, the sequencer's instruction memory, as its listed bytes (spec/20_memory.md R66; log 5). -/
  imem : Memory
deriving DecidableEq, Repr

/-- The state after reset for given OPEN parameters (spec/10_state.md R50 to R52,
spec/70_reset_and_hazards.md R251): all flags clear, Primary, `RESET_MODE`; not halted. -/
def State.resetWith (p : OpenParams) : State where
  pLo := p.gprLo
  pMid := p.gprMid
  pHi := p.gprHi
  pPc := p.gprPc
  cpsr := 0#4 ++ p.cpsrRsvd ++ 0#1 ++ resetModeBits
  spsr := p.spsr
  halted := false
  imem := p.imem

/-- The state right after reset: `resetWith` at zeros, DESIGN CHOICE (logs 1, 2, 3, 6; unsafe). -/
def State.reset : State := State.resetWith OpenParams.zero

end Sys2Proof.Machine
end

