-- ==== Sys2Proof/Machine/Flags.lean ====
section
/-! DEFINITION. The current Status Register's fields and operations (spec/10_state.md R35 to R42), the
condition evaluator (spec/40_step_and_condition.md R124), and every flag computation the spec gives: N and Z
of a 32-bit and of a 64-bit result (spec/42_multiply.md R180). C and V have no computation (R181). -/

namespace Sys2Proof.Machine

/-- `w` with bit `k` equal to `b` and the other bits as they were (spec/00_scope.md R10, "write one bit"). -/
def setBit (k : Nat) (b : Bool) (w : Word) : Word :=
  if b then w ||| BitVec.twoPow 32 k else w &&& ~~~(BitVec.twoPow 32 k)

/-- `flag_is_set(N)`, bit 31 (R39). -/
def flagN (w : Word) : Bool := w.getLsbD 31

/-- `flag_is_set(Z)`, bit 30 (R39). -/
def flagZ (w : Word) : Bool := w.getLsbD 30

/-- `flag_is_set(C)`, bit 29 (R39). -/
def flagC (w : Word) : Bool := w.getLsbD 29

/-- `flag_is_set(V)`, bit 28 (R39). -/
def flagV (w : Word) : Bool := w.getLsbD 28

/-- `set_flag(N, b)` (R40). There is no `set_flag` for C or V. -/
def setFlagN (b : Bool) (w : Word) : Word := setBit 31 b w

/-- `set_flag(Z, b)` (R40). -/
def setFlagZ (b : Bool) (w : Word) : Word := setBit 30 b w

/-- `instruction_state()`, a test of bit 5 (R36). -/
def instructionState (w : Word) : InstrSet := if w.getLsbD 5 then .alternate else .primary

/-- `set_instruction_state(s)`, which sets or clears bit 5 (R36). -/
def setInstructionState (s : InstrSet) (w : Word) : Word :=
  match s with
  | .primary => setBit 5 false w
  | .alternate => setBit 5 true w

/-- The mode field `CPSR[4:0]` (R37). -/
def modeField (w : Word) : BitVec 5 := w.extractLsb' 0 5

/-- The seven valid patterns of the mode field (R37, R38; log 26); any other is invalid. -/
def Mode.ofBits (m : BitVec 5) : Option Mode :=
  match m.toNat with
  | 0b10000 => some .user
  | 0b10001 => some .fiq
  | 0b10010 => some .irq
  | 0b10011 => some .supervisor
  | 0b10111 => some .abort
  | 0b11011 => some .undefined
  | 0b11111 => some .system
  | _ => none

/-- `mode()` of R38 on a status word: none where the spec raises InvalidMode. -/
def modeOf (w : Word) : Option Mode := Mode.ofBits (modeField w)

/-- `evaluates(c, n, z, cf, v)`: the truth table of R124. -/
def evaluates (c : Cond) (n z cf v : Bool) : Bool :=
  match c with
  | .eq => z
  | .ne => !z
  | .cs => cf
  | .cc => !cf
  | .mi => n
  | .pl => !n
  | .vs => v
  | .vc => !v
  | .hi => cf && !z
  | .ls => !cf || z
  | .ge => n == v
  | .lt => n != v
  | .gt => !z && (n == v)
  | .le => z || (n != v)
  | .al => true
  | .nv => false

/-- Does the condition pass on the flags of a status word (spec/40_step_and_condition.md R120, R129)? -/
def passes (c : Cond) (w : Word) : Bool := evaluates c (flagN w) (flagZ w) (flagC w) (flagV w)

/-- N of a 32-bit result: its bit 31 (spec/42_multiply.md R180). -/
def negative32 (r : Word) : Bool := r.getLsbD 31

/-- Z of a 32-bit result (R180). -/
def zero32 (r : Word) : Bool := r == 0

/-- N of a 64-bit result: its bit 63 (R180). -/
def negative64 (p : DWord) : Bool := p.getLsbD 63

/-- Z of a 64-bit result: all 64 bits are zero (R180). -/
def zero64 (p : DWord) : Bool := p == 0

/-- The status word after a multiply: N and Z written when S = 1, no bit changed when S = 0 (R180, R181). -/
def multiplyFlags (s : Bool) (n z : Bool) (w : Word) : Word :=
  if s then setFlagZ z (setFlagN n w) else w

end Sys2Proof.Machine
end

