-- ==== Sys2Proof/Machine/Operands.lean ====
section
/-! DEFINITION. Every operand form of the executed instructions: the branch offset, the one immediate
(spec/30_encoding.md R106), the banking of a register operand (spec/10_state.md R26, R107), and the widenings,
halves and joins of the 64-bit multiply operands (spec/00_scope.md R9). -/

namespace Sys2Proof.Machine

/-- `sext_32(w[23:0]) *32 4` (R106). -/
def branchOffset (offset24 : BitVec 24) : Word := offset24.signExtend 32 * 4

/-- The bank of r8 to r12: 1 in FIQ mode, 0 in every other (spec/10_state.md R23; log 7). -/
def bank8 (m : Mode) : Fin 2 :=
  match m with
  | .fiq => 1
  | .user | .irq | .supervisor | .abort | .undefined | .system => 0

/-- `bank13` of R24: the bank of r13 and r14. -/
def bank13 (m : Mode) : Fin 6 :=
  match m with
  | .user => 0
  | .system => 0
  | .fiq => 1
  | .supervisor => 2
  | .abort => 3
  | .irq => 4
  | .undefined => 5

/-- The saved-status slot of a mode, `SPSR[bank13(m)]` (R45; log 7). No rule reads or writes a slot (R44). -/
def spsrSlot (m : Mode) : Fin 6 := bank13 m

/-- `phys(i, m)` of R26: the physical word behind logical register `i` in mode `m`. -/
def phys (i : RegIdx) (m : Mode) : PhysReg :=
  let n := i.toNat
  if h : n < 8 then .lo ⟨n, h⟩
  else if h : n < 13 then
    .mid ⟨2 * (n - 8) + (bank8 m).val, by have := (bank8 m).isLt; omega⟩
  else if h : n < 15 then
    .hi ⟨6 * (n - 13) + (bank13 m).val, by have := (bank13 m).isLt; omega⟩
  else .pc

/-- Logical register 14, the link register (R21). -/
def lr : RegIdx := 14

/-- Logical register 15, the program counter (R21). -/
def pc : RegIdx := 15

/-- `zext_64` (spec/00_scope.md R9). -/
def zext64 (a : Word) : DWord := a.setWidth 64

/-- `sext_64` (R9). -/
def sext64 (a : Word) : DWord := a.signExtend 64

/-- `hi32` (R9). -/
def hi32 (p : DWord) : Word := p.extractLsb' 32 32

/-- `lo32` (R9). -/
def lo32 (p : DWord) : Word := p.extractLsb' 0 32

/-- `hi ++ lo`, a 64-bit accumulator from its two registers (R8). -/
def join64 (hi lo : Word) : DWord := hi ++ lo

end Sys2Proof.Machine
end

