-- ==== Sys2Proof/Machine/Ops.lean ====
section
/-! DEFINITION. The named operations the meanings are made of: the sequencing of outcomes, the instruction
memory, the register file's read and write (spec/10_state.md R26 to R29), the condition gate
(spec/40_step_and_condition.md R126) and the fatal end of a step.

Taking an exception and returning from one would stand here. This hardware has neither: "There is none. On
an error the core saves nothing" (spec/60_exceptions.md R229), "There is no return instruction and nothing to
return from" (R230; log 17). What an error does instead is to end the run, the outcome `fault`. -/

namespace Sys2Proof.Machine

/-- The outcome of an operation that yields an `α` (spec/00_scope.md R12). -/
abbrev Result (α : Type) := Host.Outcome α Fault Refusal

/-- Do `r`, then `k` with what it yields; the first fault or refusal ends the step (R10, `raise`). -/
def andThen {α β : Type} (r : Result α) (k : α → Result β) : Result β :=
  match r with
  | .next a => k a
  | .fault f => .fault f
  | .refused f => .refused f

/-! ### The instruction memory -/

/-- What an unlisted address of the instruction memory reads as: nothing, so that fetching there is refused
(spec/20_memory.md R66, R67; log 6). -/
def Memory.unlisted : Option Byte := none

/-- The byte at an address, if one is listed. -/
def Memory.readByte : Memory → Nat → Option Byte
  | [], _ => Memory.unlisted
  | (k, b) :: rest, a => if k = a then some b else Memory.readByte rest a

/-- The memory with byte `b` at address `a`, kept in strictly rising order. -/
def Memory.writeByte : Memory → Nat → Byte → Memory
  | [], a, b => [(a, b)]
  | (k, c) :: rest, a, b =>
    if a < k then (a, b) :: (k, c) :: rest
    else if a = k then (a, b) :: rest
    else (k, c) :: Memory.writeByte rest a b

/-- The canonical form: addresses strictly rising, all of them 32-bit addresses (spec/20_memory.md R61). No
listed byte equals what an unlisted address reads as, since that is nothing. -/
abbrev Memory.wf (m : Memory) : Prop :=
  m.Pairwise (fun x y => x.1 < y.1) ∧ ∀ c ∈ m, c.1 < 2 ^ 32

/-- `IMEM(a)`: the word at address `a`, little-endian, defined where all four bytes are (R63, R66). -/
def Memory.readWord (m : Memory) (a : Word) : Option Word :=
  match Memory.readByte m a.toNat, Memory.readByte m (a + 1).toNat, Memory.readByte m (a + 2).toNat,
      Memory.readByte m (a + 3).toNat with
  | some b0, some b1, some b2, some b3 => some (wordOfBytes b0 b1 b2 b3)
  | _, _, _, _ => none

/-- The memory with word `w` at address `a` (R63). No step does this: it is how a program is loaded. -/
def Memory.writeWord (m : Memory) (a : Word) (w : Word) : Memory :=
  Memory.writeByte (Memory.writeByte (Memory.writeByte (Memory.writeByte m
    a.toNat (byteOfWord w 0)) (a + 1).toNat (byteOfWord w 1)) (a + 2).toNat (byteOfWord w 2))
    (a + 3).toNat (byteOfWord w 3)

/-! ### The register file -/

/-- The contents of a physical word (spec/10_state.md R20). -/
def State.getPhys (s : State) (q : PhysReg) : Word :=
  match q with
  | .lo k => s.pLo[k]
  | .mid k => s.pMid[k]
  | .hi k => s.pHi[k]
  | .pc => s.pPc

/-- The state with one physical word replaced. -/
def State.setPhys (s : State) (q : PhysReg) (v : Word) : State :=
  match q with
  | .lo k => { s with pLo := s.pLo.set k v }
  | .mid k => { s with pMid := s.pMid.set k v }
  | .hi k => { s with pHi := s.pHi.set k v }
  | .pc => { s with pPc := v }

/-- The state with another status word. -/
def State.setCpsr (s : State) (w : Word) : State := { s with cpsr := w }

/-- `mode()` at a register access (R27, R38): the current mode, or Fatal(InvalidMode) with the mode field;
`word` is the instruction being run, none at a host port (log 10, 11). -/
def currentMode (word : Option Word) (s : State) : Result Mode :=
  match modeOf s.cpsr with
  | some m => .next m
  | none => .fault (.invalidMode word (modeField s.cpsr))

/-- `x[i]` (R28), r15 as stored with nothing added. -/
def readReg (word : Option Word) (i : RegIdx) (s : State) : Result Word :=
  andThen (currentMode word s) fun m => .next (s.getPhys (phys i m))

/-- `x[i] <- v` (R29), all 32 bits, one physical word. -/
def writeReg (word : Option Word) (i : RegIdx) (v : Word) (s : State) : Result State :=
  andThen (currentMode word s) fun m => .next (s.setPhys (phys i m) v)

/-! ### The frame of a step -/

/-- The condition gate (spec/40_step_and_condition.md R120, R126): when the condition fails the step is
complete and nothing has changed. The flags are those at the start of the step (R129). -/
def whenPasses (c : Cond) (s : State) (body : Result State) : Result State :=
  if passes c s.cpsr then body else .next s

/-- The dispatcher's error for an operation the core has no handler for (spec/60_exceptions.md R222): no
register is read and nothing is written; skipped like any instruction when the condition fails (R121). -/
def unsupported (word : Word) (field : Option (BitVec 4)) (c : Cond) (s : State) : Result State :=
  whenPasses c s (.fault (.unsupportedOperation word field))

end Sys2Proof.Machine
end

