-- ==== Sys2Proof/Machine/Branch.lean ====
section
/-! DEFINITION. The branch execution unit (spec/41_branch.md R150 to R157): B, BL, BX. The current PC is
r15 as stored, read once before any write; no flag is written; no target is aligned. -/

namespace Sys2Proof.Machine

/-- B (R151): r15 plus the offset, wrapping. -/
def execB (c : Cond) (offset24 : BitVec 24) (s : State) : Result State :=
  let word := some (encode (.b c offset24))
  whenPasses c s <|
    andThen (readReg word pc s) fun pc0 =>
    writeReg word pc (pc0 + branchOffset offset24) s

/-- BL (R152): the link register of the current mode's bank gets the old r15 plus 4, then r15 moves. Both
values come from the one read (log 20 for the wrap of the link value). -/
def execBl (c : Cond) (offset24 : BitVec 24) (s : State) : Result State :=
  let word := some (encode (.bl c offset24))
  whenPasses c s <|
    andThen (readReg word pc s) fun pc0 =>
    andThen (writeReg word lr (pc0 + 4) s) fun s1 =>
    writeReg word pc (pc0 + branchOffset offset24) s1

/-- BX (R154): the instruction-set state from bit 0 of the target, then r15 gets the target whole, bit 0
kept (R155; log 21). -/
def execBx (c : Cond) (rm : RegIdx) (s : State) : Result State :=
  let word := some (encode (.bx c rm))
  whenPasses c s <|
    andThen (readReg word rm s) fun t =>
    let set := if t.getLsbD 0 then InstrSet.alternate else InstrSet.primary
    writeReg word pc t (s.setCpsr (setInstructionState set s.cpsr))

end Sys2Proof.Machine
end

