-- ==== Sys2Proof/Machine/Multiply.lean ====
section
/-! DEFINITION. The multiply execution unit (spec/42_multiply.md R170 to R187). In every form the operands
are read first, then the destinations are written, then the flags (R179); r15 is a register like any other
(R183; log 22). -/

namespace Sys2Proof.Machine

/-- The end of a 32-bit form: Rd gets the result, then N and Z if S = 1 (R171, R172, R180). -/
def finishShort (word : Option Word) (sf : Bool) (rd : RegIdx) (r : Word) (s : State) : Result State :=
  andThen (writeReg word rd r s) fun s1 =>
  .next (s1.setCpsr (multiplyFlags sf (negative32 r) (zero32 r) s1.cpsr))

/-- The end of a 64-bit form: RdLo, then RdHi, then N and Z of all 64 bits if S = 1 (R173, R180, R185). -/
def finishLong (word : Option Word) (sf : Bool) (rdHi rdLo : RegIdx) (p : DWord) (s : State) :
    Result State :=
  andThen (writeReg word rdLo (lo32 p) s) fun s1 =>
  andThen (writeReg word rdHi (hi32 p) s1) fun s2 =>
  .next (s2.setCpsr (multiplyFlags sf (negative64 p) (zero64 p) s2.cpsr))

/-- The product of a 64-bit form: Rm and Rs read, each widened, multiplied modulo 2^64 (R173, R175). -/
def longProduct (word : Option Word) (widen : Word → DWord) (rm rs : RegIdx) (s : State) : Result DWord :=
  andThen (readReg word rm s) fun a =>
  andThen (readReg word rs s) fun b =>
  .next (widen a * widen b)

/-- A 64-bit multiply (R173, R175); RdHi = RdLo is refused before any read (R184; log 23). -/
def longMultiply (word : Word) (widen : Word → DWord) (c : Cond) (sf : Bool) (rdHi rdLo rs rm : RegIdx)
    (s : State) : Result State :=
  whenPasses c s <|
    if rdHi = rdLo then .refused .longMultiplySameDestination
    else
      andThen (longProduct (some word) widen rm rs s) fun p =>
      finishLong (some word) sf rdHi rdLo p s

/-- A 64-bit multiply-accumulate (R174, R176): the accumulator RdHi:RdLo is read before either half is
written, and the sum is taken modulo 2^64 (log 20). -/
def longMultiplyAccumulate (word : Word) (widen : Word → DWord) (c : Cond) (sf : Bool)
    (rdHi rdLo rs rm : RegIdx) (s : State) : Result State :=
  whenPasses c s <|
    if rdHi = rdLo then .refused .longMultiplySameDestination
    else
      andThen (longProduct (some word) widen rm rs s) fun p =>
      andThen (readReg (some word) rdHi s) fun hi =>
      andThen (readReg (some word) rdLo s) fun lo =>
      finishLong (some word) sf rdHi rdLo (p + join64 hi lo) s

/-- MUL (R171): Rd = Rm × Rs, the low 32 bits. `w[15:12]` is ignored (spec/30_encoding.md R108). -/
def execMul (c : Cond) (sf : Bool) (rd : RegIdx) (unusedRn : BitVec 4) (rs rm : RegIdx) (s : State) :
    Result State :=
  let word := some (encode (.mul c sf rd unusedRn rs rm))
  whenPasses c s <|
    andThen (readReg word rm s) fun a =>
    andThen (readReg word rs s) fun b =>
    finishShort word sf rd (a * b) s

/-- MLA (R172): Rd = Rm × Rs + Rn, modulo 2^32 (log 20). -/
def execMla (c : Cond) (sf : Bool) (rd rn rs rm : RegIdx) (s : State) : Result State :=
  let word := some (encode (.mla c sf rd rn rs rm))
  whenPasses c s <|
    andThen (readReg word rm s) fun a =>
    andThen (readReg word rs s) fun b =>
    andThen (readReg word rn s) fun acc =>
    finishShort word sf rd (a * b + acc) s

/-- UMULL (R173): RdHi:RdLo = Rm × Rs, unsigned. -/
def execUmull (c : Cond) (sf : Bool) (rdHi rdLo rs rm : RegIdx) (s : State) : Result State :=
  longMultiply (encode (.umull c sf rdHi rdLo rs rm)) zext64 c sf rdHi rdLo rs rm s

/-- UMLAL (R174): RdHi:RdLo = Rm × Rs + RdHi:RdLo, unsigned. -/
def execUmlal (c : Cond) (sf : Bool) (rdHi rdLo rs rm : RegIdx) (s : State) : Result State :=
  longMultiplyAccumulate (encode (.umlal c sf rdHi rdLo rs rm)) zext64 c sf rdHi rdLo rs rm s

/-- SMULL (R175): RdHi:RdLo = Rm × Rs, signed, as a two's-complement pattern. -/
def execSmull (c : Cond) (sf : Bool) (rdHi rdLo rs rm : RegIdx) (s : State) : Result State :=
  longMultiply (encode (.smull c sf rdHi rdLo rs rm)) sext64 c sf rdHi rdLo rs rm s

/-- SMLAL (R176): RdHi:RdLo = Rm × Rs + RdHi:RdLo, signed. -/
def execSmlal (c : Cond) (sf : Bool) (rdHi rdLo rs rm : RegIdx) (s : State) : Result State :=
  longMultiplyAccumulate (encode (.smlal c sf rdHi rdLo rs rm)) sext64 c sf rdHi rdLo rs rm s

/-- UMAAL (R177): Fatal(UnsupportedOperation) with field 0b0010 when the condition passes. -/
def execUmaal (c : Cond) (sf : Bool) (rdHi rdLo rs rm : RegIdx) (s : State) : Result State :=
  unsupported (encode (.umaal c sf rdHi rdLo rs rm)) (some 0b0010) c s

/-- Sub-operation 0b0011 (R178): Fatal(UnsupportedOperation) with the field when the condition passes (log 19). -/
def execMulSub0011 (c : Cond) (sf : Bool) (unusedD unusedN unusedS unusedM : BitVec 4) (s : State) :
    Result State :=
  unsupported (encode (.mulSub0011 c sf unusedD unusedN unusedS unusedM)) (some 0b0011) c s

/-- Sub-operation 0b1000 (R178): Fatal(UnsupportedOperation) with the field when the condition passes (log 19). -/
def execMulSub1000 (c : Cond) (sf : Bool) (unusedD unusedN unusedS unusedM : BitVec 4) (s : State) :
    Result State :=
  unsupported (encode (.mulSub1000 c sf unusedD unusedN unusedS unusedM)) (some 0b1000) c s

/-- Sub-operation 0b1001 (R178): Fatal(UnsupportedOperation) with the field when the condition passes (log 19). -/
def execMulSub1001 (c : Cond) (sf : Bool) (unusedD unusedN unusedS unusedM : BitVec 4) (s : State) :
    Result State :=
  unsupported (encode (.mulSub1001 c sf unusedD unusedN unusedS unusedM)) (some 0b1001) c s

/-- Sub-operation 0b1010 (R178): Fatal(UnsupportedOperation) with the field when the condition passes (log 19). -/
def execMulSub1010 (c : Cond) (sf : Bool) (unusedD unusedN unusedS unusedM : BitVec 4) (s : State) :
    Result State :=
  unsupported (encode (.mulSub1010 c sf unusedD unusedN unusedS unusedM)) (some 0b1010) c s

/-- Sub-operation 0b1011 (R178): Fatal(UnsupportedOperation) with the field when the condition passes (log 19). -/
def execMulSub1011 (c : Cond) (sf : Bool) (unusedD unusedN unusedS unusedM : BitVec 4) (s : State) :
    Result State :=
  unsupported (encode (.mulSub1011 c sf unusedD unusedN unusedS unusedM)) (some 0b1011) c s

/-- Sub-operation 0b1100 (R178): Fatal(UnsupportedOperation) with the field when the condition passes (log 19). -/
def execMulSub1100 (c : Cond) (sf : Bool) (unusedD unusedN unusedS unusedM : BitVec 4) (s : State) :
    Result State :=
  unsupported (encode (.mulSub1100 c sf unusedD unusedN unusedS unusedM)) (some 0b1100) c s

/-- Sub-operation 0b1101 (R178): Fatal(UnsupportedOperation) with the field when the condition passes (log 19). -/
def execMulSub1101 (c : Cond) (sf : Bool) (unusedD unusedN unusedS unusedM : BitVec 4) (s : State) :
    Result State :=
  unsupported (encode (.mulSub1101 c sf unusedD unusedN unusedS unusedM)) (some 0b1101) c s

/-- Sub-operation 0b1110 (R178): Fatal(UnsupportedOperation) with the field when the condition passes (log 19). -/
def execMulSub1110 (c : Cond) (sf : Bool) (unusedD unusedN unusedS unusedM : BitVec 4) (s : State) :
    Result State :=
  unsupported (encode (.mulSub1110 c sf unusedD unusedN unusedS unusedM)) (some 0b1110) c s

/-- Sub-operation 0b1111 (R178): Fatal(UnsupportedOperation) with the field when the condition passes (log 19). -/
def execMulSub1111 (c : Cond) (sf : Bool) (unusedD unusedN unusedS unusedM : BitVec 4) (s : State) :
    Result State :=
  unsupported (encode (.mulSub1111 c sf unusedD unusedN unusedS unusedM)) (some 0b1111) c s

end Sys2Proof.Machine
end

