-- ==== Sys2Proof/Machine/Unexecuted.lean ====
section
/-! DEFINITION. The thirteen categories that are decoded and not executed (spec/43_decoded_unexecuted.md
R200 to R214): Fatal(UnsupportedOperation) with the word when the condition passes, nothing at all when it
fails. "This spec surfaces it as the Fatal outcome and does not substitute a no-op" (R200; log 24). -/

namespace Sys2Proof.Machine

/-- SWI, SoftwareInterrupt (R201). -/
def execSwi (c : Cond) (comment : BitVec 24) (s : State) : Result State :=
  unsupported (encode (.swi c comment)) none c s

/-- LDM, LoadMultiple (R202). -/
def execLdm (c : Cond) (unusedHi : BitVec 4) (unusedLo : BitVec 20) (s : State) : Result State :=
  unsupported (encode (.ldm c unusedHi unusedLo)) none c s

/-- STM, StoreMultiple (R203). -/
def execStm (c : Cond) (unusedHi : BitVec 4) (unusedLo : BitVec 20) (s : State) : Result State :=
  unsupported (encode (.stm c unusedHi unusedLo)) none c s

/-- LDR, LoadWord (R204). -/
def execLdr (c : Cond) (unusedHi : BitVec 5) (unusedLo : BitVec 20) (s : State) : Result State :=
  unsupported (encode (.ldr c unusedHi unusedLo)) none c s

/-- STR, StoreWord (R205). -/
def execStr (c : Cond) (unusedHi : BitVec 5) (unusedLo : BitVec 20) (s : State) : Result State :=
  unsupported (encode (.str c unusedHi unusedLo)) none c s

/-- LDRH, LoadHalfword (R206). -/
def execLdrh (c : Cond) (unusedHi : BitVec 4) (unusedMid : BitVec 12) (unusedLo : BitVec 4) (s : State) : Result State :=
  unsupported (encode (.ldrh c unusedHi unusedMid unusedLo)) none c s

/-- LDRSB, LoadSignedByte (R207). -/
def execLdrsb (c : Cond) (unusedHi : BitVec 4) (unusedMid : BitVec 12) (unusedLo : BitVec 4) (s : State) : Result State :=
  unsupported (encode (.ldrsb c unusedHi unusedMid unusedLo)) none c s

/-- LDRSH, LoadSignedHalfword (R208). -/
def execLdrsh (c : Cond) (unusedHi : BitVec 4) (unusedMid : BitVec 12) (unusedLo : BitVec 4) (s : State) : Result State :=
  unsupported (encode (.ldrsh c unusedHi unusedMid unusedLo)) none c s

/-- STRH, StoreHalfword (R209). -/
def execStrh (c : Cond) (unusedHi : BitVec 4) (unusedMid : BitVec 12) (unusedLo : BitVec 4) (s : State) : Result State :=
  unsupported (encode (.strh c unusedHi unusedMid unusedLo)) none c s

/-- MRS, MoveStatusToRegister (R210). -/
def execMrs (c : Cond) (unused22 : BitVec 1) (unusedLo : BitVec 4) (s : State) : Result State :=
  unsupported (encode (.mrs c unused22 unusedLo)) none c s

/-- MSR, MoveRegisterToStatus (R211). -/
def execMsr (c : Cond) (unused25 : BitVec 1) (unused22 : BitVec 1) (unusedMid : BitVec 4) (unusedLo : BitVec 12) (s : State) : Result State :=
  unsupported (encode (.msr c unused25 unused22 unusedMid unusedLo)) none c s

/-- SWP, Swap (R212). -/
def execSwp (c : Cond) (unused22 : BitVec 1) (unusedMid : BitVec 8) (unusedLo : BitVec 4) (s : State) : Result State :=
  unsupported (encode (.swp c unused22 unusedMid unusedLo)) none c s

/-- DP, DataProcessing (R213). -/
def execDp (c : Cond) (unused : BitVec 26) (s : State) : Result State :=
  unsupported (encode (.dp c unused)) none c s

end Sys2Proof.Machine
end

