-- ==== Sys2Proof/Machine/Dispatch.lean ====
section
/-! DEFINITION. Dispatch (spec/40_step_and_condition.md R128): one arm per constructor, in the order of
spec/opcode_table.json. `exec` is the part of the step of R120 that follows decode: condition check,
dispatch, execution. -/

namespace Sys2Proof.Machine

def exec (i : Instr) (s : State) : Host.Outcome State Fault Refusal :=
  match i with
  | .swi c k => Sys2Proof.Machine.execSwi c k s
  | .bl c off => Sys2Proof.Machine.execBl c off s
  | .b c off => Sys2Proof.Machine.execB c off s
  | .bx c rm => Sys2Proof.Machine.execBx c rm s
  | .ldm c u l => Sys2Proof.Machine.execLdm c u l s
  | .stm c u l => Sys2Proof.Machine.execStm c u l s
  | .ldr c u l => Sys2Proof.Machine.execLdr c u l s
  | .str c u l => Sys2Proof.Machine.execStr c u l s
  | .ldrh c u m l => Sys2Proof.Machine.execLdrh c u m l s
  | .ldrsb c u m l => Sys2Proof.Machine.execLdrsb c u m l s
  | .ldrsh c u m l => Sys2Proof.Machine.execLdrsh c u m l s
  | .strh c u m l => Sys2Proof.Machine.execStrh c u m l s
  | .mrs c u l => Sys2Proof.Machine.execMrs c u l s
  | .msr c u v m l => Sys2Proof.Machine.execMsr c u v m l s
  | .swp c u m l => Sys2Proof.Machine.execSwp c u m l s
  | .mul c sf d n rs rm => Sys2Proof.Machine.execMul c sf d n rs rm s
  | .mla c sf d n rs rm => Sys2Proof.Machine.execMla c sf d n rs rm s
  | .umaal c sf d n rs rm => Sys2Proof.Machine.execUmaal c sf d n rs rm s
  | .mulSub0011 c sf d n rs rm => Sys2Proof.Machine.execMulSub0011 c sf d n rs rm s
  | .umull c sf d n rs rm => Sys2Proof.Machine.execUmull c sf d n rs rm s
  | .umlal c sf d n rs rm => Sys2Proof.Machine.execUmlal c sf d n rs rm s
  | .smull c sf d n rs rm => Sys2Proof.Machine.execSmull c sf d n rs rm s
  | .smlal c sf d n rs rm => Sys2Proof.Machine.execSmlal c sf d n rs rm s
  | .mulSub1000 c sf d n rs rm => Sys2Proof.Machine.execMulSub1000 c sf d n rs rm s
  | .mulSub1001 c sf d n rs rm => Sys2Proof.Machine.execMulSub1001 c sf d n rs rm s
  | .mulSub1010 c sf d n rs rm => Sys2Proof.Machine.execMulSub1010 c sf d n rs rm s
  | .mulSub1011 c sf d n rs rm => Sys2Proof.Machine.execMulSub1011 c sf d n rs rm s
  | .mulSub1100 c sf d n rs rm => Sys2Proof.Machine.execMulSub1100 c sf d n rs rm s
  | .mulSub1101 c sf d n rs rm => Sys2Proof.Machine.execMulSub1101 c sf d n rs rm s
  | .mulSub1110 c sf d n rs rm => Sys2Proof.Machine.execMulSub1110 c sf d n rs rm s
  | .mulSub1111 c sf d n rs rm => Sys2Proof.Machine.execMulSub1111 c sf d n rs rm s
  | .dp c u => Sys2Proof.Machine.execDp c u s

end Sys2Proof.Machine
end

