-- ==== Sys2Proof/Machine/Sequencer.lean ====
section
/-! DEFINITION. The step of the core on a given word (spec/40_step_and_condition.md R120) and the reference
sequencer around it (spec/20_memory.md R66 to R69): fetch at r15, the core's step, r15 + 4 after a step that
did not write r15. -/

namespace Sys2Proof.Machine

/-- Does the instruction, once executed, perform `x[15] <- v` (R127)? The three branches do, and a multiply
one of whose destination fields is 15. -/
def namesPcAsDestination (i : Instr) : Bool :=
  match i with
  | .bl _ _ => true
  | .b _ _ => true
  | .bx _ _ => true
  | .mul _ _ rd _ _ _ => rd == pc
  | .mla _ _ rd _ _ _ => rd == pc
  | .umull _ _ rdHi rdLo _ _ => rdHi == pc || rdLo == pc
  | .umlal _ _ rdHi rdLo _ _ => rdHi == pc || rdLo == pc
  | .smull _ _ rdHi rdLo _ _ => rdHi == pc || rdLo == pc
  | .smlal _ _ rdHi rdLo _ _ => rdHi == pc || rdLo == pc
  | .swi _ _ => false
  | .ldm _ _ _ => false
  | .stm _ _ _ => false
  | .ldr _ _ _ => false
  | .str _ _ _ => false
  | .ldrh _ _ _ _ => false
  | .ldrsb _ _ _ _ => false
  | .ldrsh _ _ _ _ => false
  | .strh _ _ _ _ => false
  | .mrs _ _ _ => false
  | .msr _ _ _ _ _ => false
  | .swp _ _ _ _ => false
  | .umaal _ _ _ _ _ _ => false
  | .mulSub0011 _ _ _ _ _ _ => false
  | .mulSub1000 _ _ _ _ _ _ => false
  | .mulSub1001 _ _ _ _ _ _ => false
  | .mulSub1010 _ _ _ _ _ _ => false
  | .mulSub1011 _ _ _ _ _ _ => false
  | .mulSub1100 _ _ _ _ _ _ => false
  | .mulSub1101 _ _ _ _ _ _ => false
  | .mulSub1110 _ _ _ _ _ _ => false
  | .mulSub1111 _ _ _ _ _ _ => false
  | .dp _ _ => false

/-- `pc_written` of a step that runs `i` in `s` (R127; log 15): an output of the step, not state. -/
def pcWritten (i : Instr) (s : State) : Bool := passes i.cond s.cpsr && namesPcAsDestination i

/-- One step of the core on word `w` (R120): the state after it and `pc_written`. After the end of a run there
is no step (spec/00_scope.md R12; log 8); the Alternate state is refused before decode (R122; log 18); decode
comes before the condition check (R121; log 12). -/
def coreStep (w : Word) (s : State) : Result (State × Bool) :=
  if s.halted then .refused .halted
  else
    match instructionState s.cpsr with
    | .alternate => .refused .alternateState
    | .primary =>
      match decode w with
      | .error (.unrecognizedInstruction v) => .fault (.unrecognizedInstruction v)
      | .ok i => andThen (exec i s) fun t => .next (t, pcWritten i s)

/-- R68: r15 plus `PC_STEP`, modulo 2^32. -/
def State.advance (s : State) : State := s.setPhys .pc (s.pPc + pcStep)

/-- What the sequencer does with an `Ok` step (R68): it advances r15 unless the step wrote it. -/
def afterStep (r : State × Bool) : State := if r.2 then r.1 else r.1.advance

/-- One step of the reference sequencer, `run_step` of R67, its checks in the order given there. -/
def runStep (s : State) : Result State :=
  if s.halted then .refused .halted
  else
    match instructionState s.cpsr with
    | .alternate => .refused .alternateState
    | .primary =>
      if s.pPc.extractLsb' 0 2 ≠ 0 then .refused .misalignedFetch
      else
        match Memory.readWord s.imem s.pPc with
        | none => .refused .noInstruction
        | some w => andThen (coreStep w s) fun r => .next (afterStep r)

/-- What is left of the machine after a step or port action (R54, spec/00_scope.md R12; log 8): the next
state, or the state it began with (a fatal step writes nothing, R132), halted. -/
def State.record (s : State) (o : Result State) : State :=
  match o with
  | .next t => t
  | .fault _ => { s with halted := true }
  | .refused _ => { s with halted := true }

/-- The state in which the very next step fetches and runs the word `w` (log 9): `w` stands at r15. Where the
state could not fetch at all, what stands in the way is taken out of it: r15's low two bits, the Alternate bit
and the halted bit become 0; in a state that can fetch, the memory alone changes. -/
def State.loadNext (s : State) (w : Word) : State :=
  let a := s.pPc &&& 0xFFFF_FFFC
  { s with
    pPc := a
    cpsr := setInstructionState .primary s.cpsr
    halted := false
    imem := Memory.writeWord s.imem a w }

end Sys2Proof.Machine
end

