-- ==== Sys2Proof/Machine/Step.lean ====
section
/-! DEFINITION. The machine's step: one step of the reference sequencer (spec/20_memory.md R67). All of it
stands in Sys2Proof/Machine/Sequencer.lean; this file only names it. -/

namespace Sys2Proof.Machine

/-- One step: fetch at r15, run the word, advance r15 if the step did not write it (R67). -/
def step (s : State) : Host.Outcome State Fault Refusal := runStep s

/-- `s` with an instruction of the opcode table placed where `step` fetches next (log 9). -/
def State.withFetchWord (s : State) (nbits w : Nat) : State := s.loadNext (tableWord nbits w)

end Sys2Proof.Machine
end

