-- ==== Sys2Proof/Machine/Ports.lean ====
section
/-! DEFINITION. The ports of the block, which the host uses between steps (spec/10_state.md R46 to R48,
spec/20_memory.md R70): register read and write with the index check first and then the mode check
(spec/92_eei_decisions.md D30; log 28), and the raw status port. They are not instructions and no step uses
them; together with the step they are everything that can change the state. -/

namespace Sys2Proof.Machine

/-- The state is not observable after the end of a run (spec/00_scope.md R12; log 8). -/
def whileRunning {α : Type} (s : State) (r : Result α) : Result α :=
  if s.halted then .refused .halted else r

/-- An index the port accepts, 0 to 15, or Fatal(InvalidRegisterIndex) (R28, R29). -/
def portIndex (i : Nat) : Result RegIdx :=
  if 15 < i then .fault (.invalidRegisterIndex i) else .next (BitVec.ofNat 4 i)

/-- The register read port (R46). -/
def portRead (i : Nat) (s : State) : Result Word :=
  whileRunning s (andThen (portIndex i) fun r => readReg none r s)

/-- The register write port (R47). -/
def portWrite (i : Nat) (v : Word) (s : State) : Result State :=
  whileRunning s (andThen (portIndex i) fun r => writeReg none r v s)

/-- The raw status read (R48). -/
def statusRead (s : State) : Result Word := whileRunning s (.next s.cpsr)

/-- The raw status write (R48): all 32 bits, no check, no register moves (log 28). -/
def statusWrite (v : Word) (s : State) : Result State := whileRunning s (.next (s.setCpsr v))

/-- What the host can do to the state between two steps (R70). -/
inductive HostAction where
  | readRegister (i : Nat)
  | writeRegister (i : Nat) (v : Word)
  | readStatus
  | writeStatus (v : Word)
deriving DecidableEq, Repr

/-- The state after a host action; a read changes nothing (R28). -/
def hostAct (a : HostAction) (s : State) : Result State :=
  match a with
  | .readRegister i => andThen (portRead i s) fun _ => .next s
  | .writeRegister i v => portWrite i v s
  | .readStatus => andThen (statusRead s) fun _ => .next s
  | .writeStatus v => statusWrite v s

end Sys2Proof.Machine
end

