-- ==== Sys2Proof/Safety.lean ====
section
/-! DEFINITION. The terms the claims are stated in: what a state leaves unchanged beside another, a state
that can fetch, and the invariant of a run. -/

namespace Sys2Proof.Machine

/-- Every bit of the status word outside `bits` is unchanged (spec/10_state.md R36, R40). -/
def CpsrFrame (bits : List Nat) (s t : State) : Prop :=
  ∀ k, k ∉ bits → t.cpsr.getLsbD k = s.cpsr.getLsbD k

/-- Every physical general word outside `qs`, in every bank, is unchanged (R29). -/
def RegFrame (qs : List PhysReg) (s t : State) : Prop :=
  ∀ q, q ∉ qs → t.getPhys q = s.getPhys q

/-- The saved-status slots, the halted bit and every byte of the instruction memory are unchanged (R44,
spec/20_memory.md R74). -/
def RestFrame (s t : State) : Prop :=
  t.spsr = s.spsr ∧ t.halted = s.halted ∧
    ∀ a, Memory.readByte t.imem a = Memory.readByte s.imem a

/-- Nothing but the physical words `qs` and the status bits `bits` has changed. -/
def Frame (qs : List PhysReg) (bits : List Nat) (s t : State) : Prop :=
  RegFrame qs s t ∧ CpsrFrame bits s t ∧ RestFrame s t

/-- The sequencer can fetch in `s` and the word it fetches is `w` (spec/20_memory.md R67). -/
def Fetches (s : State) (w : Word) : Prop :=
  s.halted = false ∧ instructionState s.cpsr = .primary ∧ s.pPc.extractLsb' 0 2 = 0 ∧
    Memory.readWord s.imem s.pPc = some w

/-- What a sequencer step that runs `i` answers (spec/20_memory.md R68): the outcome of `exec`, with r15 plus 4
where the step did not write r15. -/
def sequenced (i : Instr) (s : State) : Result State :=
  match exec i s with
  | .next t => .next (if pcWritten i s then t else { t with pPc := t.pPc + 4 })
  | .fault f => .fault f
  | .refused r => .refused r

/-- The modes `m` and `n` see one physical word behind logical register `i`, in the words of spec/10_state.md
R22 to R25 and R30: r0 to r7 and r15 have one; r8 to r12 have one for FIQ and one for all other modes; r13 and
r14 have one per mode, User and System sharing. -/
def SameBank (i : Nat) (m n : Mode) : Prop :=
  i < 8 ∨ i = 15 ∨ (8 ≤ i ∧ i ≤ 12 ∧ (m = .fiq ↔ n = .fiq)) ∨
    (13 ≤ i ∧ i ≤ 14 ∧ (m = n ∨ (m ∈ [Mode.user, .system] ∧ n ∈ [Mode.user, .system])))

/-- The invariant of a run: the instruction memory is in canonical form, the mode field is one of the seven
valid patterns (R37), the run has not ended, and the Alternate state is only ever entered with an odd r15
(spec/41_branch.md R154). -/
def Inv (s : State) : Prop :=
  Memory.wf s.imem ∧ (∃ m, modeOf s.cpsr = some m) ∧ s.halted = false ∧
    (instructionState s.cpsr = .alternate → s.pPc.getLsbD 0 = true)

/-- N and Z of a flag-setting multiply, every other status bit unchanged; with S = 0 all of them
(spec/42_multiply.md R180, R181). -/
def MultiplyStatus (sf n z : Bool) (s t : State) : Prop :=
  flagN t.cpsr = (if sf then n else flagN s.cpsr) ∧ flagZ t.cpsr = (if sf then z else flagZ s.cpsr) ∧
    CpsrFrame [31, 30] s t

end Sys2Proof.Machine
end

