-- ==== Sys2Proof/Certificates/Slice0/Obligations.lean ====
section
/-! DEFINITION. The statements for the provers. A statement whose clause rests on one of the spec's own
decisions D<n>, or on a rule the spec marks as derived, has basis 'derived' in OBLIGATIONS.json, and its
docstring names the decision and the log entry. -/

open Sys2Proof Sys2Proof.Machine

/-- Decoding the encoding of any well-formed instruction gives the instruction back. Derived from:
30_encoding.md sections 2, 3 and 7, 95_test_vectors.md section 2.1. -/
def Obligations.DecodeOfEncodeIsIdentity : Prop :=
  ∀ i : Instr, i.wf = true → decode (encode i) = .ok i

/-- Every word the decoder accepts is the encoding of the instruction it gives, which is well formed.
Derived from: 30_encoding.md sections 2, 3 and 7. -/
def Obligations.EncodeOfDecodeIsIdentity : Prop :=
  ∀ (w : Word) (i : Instr), decode w = .ok i → encode i = w ∧ i.wf = true

/-- The unrecognised words are exactly those with w[27:24] in 1100, 1101, 1110. Derived from: 30_encoding.md
section 5 (R104, marked derived there), 60_exceptions.md section 1. -/
def Obligations.UnrecognizedWordsAreTheCoprocessorSpace : Prop :=
  ∀ w : Word,
    (decode w = .error (.unrecognizedInstruction w) ↔
      w.extractLsb' 24 4 ∈ [0b1100#4, 0b1101#4, 0b1110#4]) ∧
    ((∃ i, decode w = .ok i) ↔ w.extractLsb' 24 4 ∉ [0b1100#4, 0b1101#4, 0b1110#4])

/-- decode takes the category of the first matching pattern, and rejects a word that matches none.
Formalises: R82. -/
def Obligations.DecoderTakesTheFirstMatchingPattern : Prop :=
  patterns.map (fun p : Pattern => (p.mask, p.value)) =
      [(0x0F000000, 0x0F000000), (0x0F000000, 0x0B000000), (0x0F000000, 0x0A000000),
       (0x0FFFFFF0, 0x012FFF10), (0x0E100000, 0x08100000), (0x0E100000, 0x08000000),
       (0x0C100000, 0x04100000), (0x0C100000, 0x04000000), (0x0E1000F0, 0x001000B0),
       (0x0E1000F0, 0x001000D0), (0x0E1000F0, 0x001000F0), (0x0E1000F0, 0x000000B0),
       (0x0FBF0FFF, 0x010F0000), (0x0DB0F000, 0x0120F000), (0x0FB00FF0, 0x01000090),
       (0x0E0000F0, 0x00000090), (0x0C000000, 0x00000000)] ∧
  patterns.map (fun p : Pattern => p.category) =
      [.softwareInterrupt, .branchLink, .branch, .branchExchange, .loadMultiple, .storeMultiple,
       .loadWord, .storeWord, .loadHalfword, .loadSignedByte, .loadSignedHalfword, .storeHalfword,
       .moveStatusToRegister, .moveRegisterToStatus, .swap, .multiplyFamily, .dataProcessing] ∧
  ∀ w : Word,
    (∀ c, classify w = some c ↔
      ∃ (k : Nat) (p : Pattern), patterns[k]? = some p ∧ w &&& p.mask = p.value ∧ p.category = c ∧
        ∀ (j : Nat) (q : Pattern), j < k → patterns[j]? = some q → w &&& q.mask ≠ q.value) ∧
    (decode w = .error (.unrecognizedInstruction w) ↔ ∀ p ∈ patterns, w &&& p.mask ≠ p.value)

/-- The category of a word does not depend on bits 31 to 28. Derived from: 95_test_vectors.md section 2.1
property 1, 30_encoding.md section 1. -/
def Obligations.DecodeIgnoresTheConditionField : Prop :=
  ∀ v w : Word, v.extractLsb' 0 28 = w.extractLsb' 0 28 → classify v = classify w

/-- Two decoder patterns share a word exactly for the thirteen listed pairs. Derived from: 30_encoding.md
section 2 (R100, marked derived there), 95_test_vectors.md section 2.1 property 4. -/
def Obligations.PatternOverlapsAreTheThirteenPairs : Prop :=
  ∀ (j k : Nat) (p q : Pattern), j < k → patterns[j]? = some p → patterns[k]? = some q →
    ((∃ w : Word, w &&& p.mask = p.value ∧ w &&& q.mask = q.value) ↔
      (j + 1, k + 1) ∈ [(4, 14), (4, 17), (9, 17), (10, 17), (11, 17), (12, 14), (12, 17), (13, 17),
        (14, 16), (14, 17), (15, 16), (15, 17), (16, 17)])

/-- Words written out from the encodings decode to the instructions they stand for. Derived from:
95_test_vectors.md sections 2.1 and 2.5, 30_encoding.md section 2. -/
def Obligations.CanonicalWordsDecodeToTheirInstructions : Prop :=
  decode 0xEA000002 = .ok (.b .al 2) ∧ decode 0xEB000010 = .ok (.bl .al 16) ∧
  decode 0xE12FFF13 = .ok (.bx .al 3) ∧ decode 0xE0010392 = .ok (.mul .al false 1 0 3 2) ∧
  decode 0xE0D10392 = .ok (.smull .al true 1 0 3 2) ∧
  decode 0xE0410392 = .ok (.umaal .al false 1 0 3 2) ∧
  decode 0xE1D100B0 = .ok (.ldrh .al 0b1110 0b000100000000 0) ∧
  decode 0xEF000000 = .ok (.swi .al 0) ∧ decode 0xE3A00000 = .ok (.dp .al 0x3A00000) ∧
  decode 0xEE000010 = .error (.unrecognizedInstruction 0xEE000010)

/-- r0 to r7 and r15 have one physical word; r13 and r14 have six, at 6 x (index - 13) + bank. Formalises:
R22, R24, R25. -/
def Obligations.UnbankedAndSixBankRegistersFollowTheirFormulas : Prop :=
  (∀ (k : Fin 8) (m : Mode), phys (BitVec.ofNat 4 k.val) m = .lo k) ∧
  (∀ m : Mode, phys 15 m = .pc) ∧
  (∀ (m : Mode) (bank : Nat),
    (m, bank) ∈ [(Mode.system, 0), (.user, 0), (.fiq, 1), (.supervisor, 2), (.abort, 3), (.irq, 4),
      (.undefined, 5)] →
    (∃ k, phys 13 m = .hi k ∧ k.val = bank) ∧ (∃ k, phys 14 m = .hi k ∧ k.val = 6 + bank))

/-- Two logical registers in two modes share a physical word exactly when they are one register in one bank
class. Derived from: 10_state.md section 2 (R23, R26, R30; log 7). -/
def Obligations.BanksAliasExactlyWithinTheirClass : Prop :=
  ∀ (i j : RegIdx) (m n : Mode), phys i m = phys j n ↔ i = j ∧ SameBank i.toNat m n

/-- A register written in one mode reads back in its bank class and leaves every other bank as it was.
Derived from: 10_state.md section 2 (R30; class reading by 90_conflicts.md C4). -/
def Obligations.RegisterWritesAreIsolatedBetweenBanks : Prop :=
  ∀ (s : State) (i : Nat) (v u : Word) (m m2 : Mode), s.halted = false → i ≤ 15 →
    modeOf s.cpsr = some m → modeOf u = some m2 →
    ∃ s1 s2 s0 : State, portWrite i v s = .next s1 ∧ portRead i s1 = .next v ∧
      statusWrite u s1 = .next s2 ∧ statusWrite u s = .next s0 ∧
      (SameBank i m m2 → portRead i s2 = .next v) ∧
      (¬ SameBank i m m2 → ∃ old, portRead i s0 = .next old ∧ portRead i s2 = .next old)

/-- flag_is_set tests bits 31, 30, 29, 28; set_flag writes bit 31 or 30 and leaves the other 31 bits.
Formalises: R39, R40. -/
def Obligations.StatusFlagOperationsTouchOneBit : Prop :=
  ∀ (w : Word) (b : Bool),
    (flagN w = w.getLsbD 31 ∧ flagZ w = w.getLsbD 30 ∧ flagC w = w.getLsbD 29 ∧
      flagV w = w.getLsbD 28) ∧
    (setFlagN b w).getLsbD 31 = b ∧ (∀ k, k ≠ 31 → (setFlagN b w).getLsbD k = w.getLsbD k) ∧
    (setFlagZ b w).getLsbD 30 = b ∧ (∀ k, k ≠ 30 → (setFlagZ b w).getLsbD k = w.getLsbD k)

/-- mode() decodes bits 4 to 0 by the seven patterns and fails with InvalidMode on any other. Formalises:
R38. -/
def Obligations.ModeDecodesTheSevenPatterns : Prop :=
  (∀ (w : Word) (m : Mode), modeOf w = some m ↔
    (m, w.extractLsb' 0 5) ∈ [(Mode.user, 0b10000#5), (.fiq, 0b10001#5), (.irq, 0b10010#5),
      (.supervisor, 0b10011#5), (.abort, 0b10111#5), (.undefined, 0b11011#5), (.system, 0b11111#5)]) ∧
  (∀ (s : State) (word : Option Word),
    s.cpsr.extractLsb' 0 5 ∉ [0b10000#5, 0b10001#5, 0b10010#5, 0b10011#5, 0b10111#5, 0b11011#5,
      0b11111#5] →
    currentMode word s = .fault (.invalidMode word (s.cpsr.extractLsb' 0 5)))

/-- A raw status write stores all 32 bits, reads back whole, and changes nothing else. Derived from:
10_state.md section 6 (R48, by decision D26; log 28). -/
def Obligations.RawStatusWriteStoresAllBitsAndMovesNoData : Prop :=
  ∀ (s : State) (v : Word), s.halted = false →
    ∃ t : State, statusWrite v s = .next t ∧ t.cpsr = v ∧ RegFrame [] s t ∧ RestFrame s t ∧
      statusRead t = .next v

/-- A register port given an index above 15 ends in InvalidRegisterIndex, whatever the mode field. Derived
from: 10_state.md sections 2 and 6 (R28, R29, R46, R47; order by decision D30; log 28). -/
def Obligations.PortRejectsAnIndexAboveFifteenBeforeTheMode : Prop :=
  ∀ (s : State) (i : Nat) (v : Word), s.halted = false → 15 < i →
    portRead i s = .fault (.invalidRegisterIndex i) ∧
    portWrite i v s = .fault (.invalidRegisterIndex i)

/-- Under an invalid mode field every register access, at a port or in an executed instruction, ends in
InvalidMode. Derived from: 10_state.md section 2 (R27, by decision D7; log 11), 60_exceptions.md section 1. -/
def Obligations.InvalidModeStopsEveryRegisterAccess : Prop :=
  ∀ s : State, modeOf s.cpsr = none →
    (∀ (i : Nat) (v : Word), s.halted = false → i ≤ 15 →
      portRead i s = .fault (.invalidMode none (s.cpsr.extractLsb' 0 5)) ∧
      portWrite i v s = .fault (.invalidMode none (s.cpsr.extractLsb' 0 5))) ∧
    (∀ (c : Cond) (off : BitVec 24) (sf : Bool) (d n rs rm : RegIdx), passes c s.cpsr = true →
      (∀ i ∈ [Instr.b c off, .bl c off, .bx c rm, .mul c sf d n rs rm, .mla c sf d n rs rm],
        exec i s = .fault (.invalidMode (some (encode i)) (s.cpsr.extractLsb' 0 5))) ∧
      (d ≠ n → ∀ i ∈ [Instr.umull c sf d n rs rm, .umlal c sf d n rs rm, .smull c sf d n rs rm,
          .smlal c sf d n rs rm],
        exec i s = .fault (.invalidMode (some (encode i)) (s.cpsr.extractLsb' 0 5))))

/-- No step and no host action writes a saved-status slot or depends on one. Derived from: 10_state.md
section 5 (R44, marked derived there). -/
def Obligations.SavedStatusSlotsAreNeverReadNorWritten : Prop :=
  ∀ (s t : State) (x : Vector Word 6),
    (step s = .next t → t.spsr = s.spsr ∧ step { s with spsr := x } = .next { t with spsr := x }) ∧
    (∀ a : HostAction, hostAct a s = .next t →
      t.spsr = s.spsr ∧ hostAct a { s with spsr := x } = .next { t with spsr := x })

/-- After reset: flags clear, Primary, Supervisor, the OPEN parameters in their places. Derived from:
70_reset_and_hazards.md section 1, 10_state.md section 7 (mode by decision D1; log 4). -/
def Obligations.ResetStateForEveryOpenParameter : Prop :=
  ∀ p : OpenParams,
    (flagN (State.resetWith p).cpsr = false ∧ flagZ (State.resetWith p).cpsr = false ∧
      flagC (State.resetWith p).cpsr = false ∧ flagV (State.resetWith p).cpsr = false) ∧
    instructionState (State.resetWith p).cpsr = .primary ∧
    modeOf (State.resetWith p).cpsr = some .supervisor ∧
    (State.resetWith p).cpsr.extractLsb' 6 22 = p.cpsrRsvd ∧
    (∀ k, (State.resetWith p).getPhys (.lo k) = p.gprLo[k]) ∧
    (∀ k, (State.resetWith p).getPhys (.mid k) = p.gprMid[k]) ∧
    (∀ k, (State.resetWith p).getPhys (.hi k) = p.gprHi[k]) ∧
    (State.resetWith p).pPc = p.gprPc ∧ (State.resetWith p).spsr = p.spsr ∧
    (State.resetWith p).imem = p.imem ∧ (State.resetWith p).halted = false

/-- The sixteen condition codes and their predicates over N, Z, C, V. Formalises: R124. -/
def Obligations.ConditionTruthTable : Prop :=
  ∀ n z cf v : Bool,
    evaluates (Cond.ofBits 0) n z cf v = z ∧ evaluates (Cond.ofBits 1) n z cf v = !z ∧
    evaluates (Cond.ofBits 2) n z cf v = cf ∧ evaluates (Cond.ofBits 3) n z cf v = !cf ∧
    evaluates (Cond.ofBits 4) n z cf v = n ∧ evaluates (Cond.ofBits 5) n z cf v = !n ∧
    evaluates (Cond.ofBits 6) n z cf v = v ∧ evaluates (Cond.ofBits 7) n z cf v = !v ∧
    evaluates (Cond.ofBits 8) n z cf v = (cf && !z) ∧
    evaluates (Cond.ofBits 9) n z cf v = (!cf || z) ∧
    evaluates (Cond.ofBits 10) n z cf v = decide (n = v) ∧
    evaluates (Cond.ofBits 11) n z cf v = decide (n ≠ v) ∧
    evaluates (Cond.ofBits 12) n z cf v = (!z && decide (n = v)) ∧
    evaluates (Cond.ofBits 13) n z cf v = (z || decide (n ≠ v)) ∧
    evaluates (Cond.ofBits 14) n z cf v = true ∧ evaluates (Cond.ofBits 15) n z cf v = false

/-- The low bit of a condition code inverts the predicate of the upper three. Derived from:
40_step_and_condition.md section 2 (R125, marked derived there). -/
def Obligations.ConditionCodesComeInNegatedPairs : Prop :=
  ∀ (k : Fin 8) (n z cf v : Bool),
    evaluates (Cond.ofBits (BitVec.ofNat 4 (2 * k.val + 1))) n z cf v =
      !evaluates (Cond.ofBits (BitVec.ofNat 4 (2 * k.val))) n z cf v

/-- An instruction whose condition fails completes with nothing changed and pc_written false. Formalises:
R126. -/
def Obligations.FailedConditionChangesNothing : Prop :=
  ∀ (i : Instr) (s : State),
    evaluates i.cond (flagN s.cpsr) (flagZ s.cpsr) (flagC s.cpsr) (flagV s.cpsr) = false →
    exec i s = .next s ∧ pcWritten i s = false

/-- B: r15 gets r15 plus four times the signed 24-bit offset, wrapping; nothing else changes. Formalises:
R151. -/
def Obligations.BranchAddsTheSignedOffset : Prop :=
  ∀ (c : Cond) (off : BitVec 24) (s : State) (m : Mode), passes c s.cpsr = true →
    modeOf s.cpsr = some m →
    ∃ t : State, exec (.b c off) s = .next t ∧
      t.pPc = s.pPc + BitVec.ofInt 32 (4 * off.toInt) ∧ pcWritten (.b c off) s = true ∧
      Frame [.pc] [] s t

/-- BL: r14 of the current mode gets old r15 plus 4, r15 the branch target; nothing else changes. Derived
from: 41_branch.md, BranchLink (R152; wrap of the link value by decision D12; log 20). -/
def Obligations.BranchLinkSavesTheReturnAddress : Prop :=
  ∀ (c : Cond) (off : BitVec 24) (s : State) (m : Mode), passes c s.cpsr = true →
    modeOf s.cpsr = some m →
    ∃ t : State, exec (.bl c off) s = .next t ∧ t.getPhys (phys 14 m) = s.pPc + 4 ∧
      t.pPc = s.pPc + BitVec.ofInt 32 (4 * off.toInt) ∧ pcWritten (.bl c off) s = true ∧
      Frame [phys 14 m, .pc] [] s t

/-- BX: the instruction-set state from bit 0 of the target, r15 the whole target; no flag changes.
Formalises: R154. -/
def Obligations.BranchExchangeTakesStateFromBitZero : Prop :=
  ∀ (c : Cond) (rm : RegIdx) (s : State) (m : Mode), passes c s.cpsr = true →
    modeOf s.cpsr = some m →
    ∃ t : State, exec (.bx c rm) s = .next t ∧ t.pPc = s.getPhys (phys rm m) ∧
      instructionState t.cpsr =
        (if (s.getPhys (phys rm m)).getLsbD 0 then .alternate else .primary) ∧
      pcWritten (.bx c rm) s = true ∧ Frame [.pc] [5] s t

/-- B and BL keep the low two bits of r15; BX stores any value, odd ones included; nothing traps and sums
wrap. Derived from: 10_state.md section 3 (R34, which speaks of r15). That BL completes at r15 = FFFFFFFC too,
where its link value overflows, is the model's choice: the link value wraps by decision D12 (log 20). -/
def Obligations.BranchesForceNoAlignment : Prop :=
  ∀ (c : Cond) (off : BitVec 24) (rm : RegIdx) (s : State) (m : Mode), passes c s.cpsr = true →
    modeOf s.cpsr = some m →
    (∃ t : State, exec (.b c off) s = .next t ∧ t.pPc.extractLsb' 0 2 = s.pPc.extractLsb' 0 2 ∧
      (s.pPc = 0xFFFFFFFC → off = 1 → t.pPc = 0)) ∧
    (∃ t : State, exec (.bl c off) s = .next t ∧ t.pPc.extractLsb' 0 2 = s.pPc.extractLsb' 0 2 ∧
      (s.pPc = 0xFFFFFFFC → off = 1 → t.pPc = 0)) ∧
    (∃ t : State, exec (.bx c rm) s = .next t ∧ t.pPc = s.getPhys (phys rm m))

/-- The branch offset is the signed 24-bit field times 4, in -2^25 .. 2^25 - 4. Derived from:
30_encoding.md section 4 (R106); the clause with the 26-bit value rests on its sentence "Equivalent form:
`offset = sext_32(w[23:0] ++ 0b00)`, a 26-bit value sign-extended", marked derived there. -/
def Obligations.BranchOffsetIsFourTimesTheSignedField : Prop :=
  (∀ off : BitVec 24,
    (branchOffset off).toInt = 4 * off.toInt ∧ branchOffset off = (off ++ 0b00#2).signExtend 32 ∧
    -(2 ^ 25) ≤ (branchOffset off).toInt ∧ (branchOffset off).toInt ≤ 2 ^ 25 - 4) ∧
  branchOffset 0x800000 = 0xFE000000 ∧ branchOffset 0x7FFFFF = 0x01FFFFFC

/-- BX r14 right after BL comes back to the word after the BL, in the mode it left. Derived from:
41_branch.md, BranchLink (R153) and Control transfer as a whole (R156). Two choices stand in it: the link value
r15 + 4 wraps (decision D12; log 20), and it is the address of the word after the BL because r15 holds the BL's
own address (decision D15; log 16). -/
def Obligations.BranchLinkThenExchangeReturns : Prop :=
  ∀ (off : BitVec 24) (s : State) (m : Mode), modeOf s.cpsr = some m →
    ∃ t u : State, exec (.bl .al off) s = .next t ∧ exec (.bx .al 14) t = .next u ∧
      u.pPc = s.pPc + 4 ∧ modeOf u.cpsr = some m ∧
      (s.pPc.getLsbD 0 = false → instructionState u.cpsr = .primary)

/-- MUL: Rd = Rm x Rs modulo 2^32, N and Z if S, nothing else changes. Formalises: R171. -/
def Obligations.MulGivesTheLowWordOfTheProduct : Prop :=
  ∀ (c : Cond) (sf : Bool) (rd : RegIdx) (unusedRn : BitVec 4) (rs rm : RegIdx) (s : State) (m : Mode),
    passes c s.cpsr = true → modeOf s.cpsr = some m →
    ∃ (t : State) (r : Word), exec (.mul c sf rd unusedRn rs rm) s = .next t ∧
      r.toNat = (s.getPhys (phys rm m)).toNat * (s.getPhys (phys rs m)).toNat % 2 ^ 32 ∧
      t.getPhys (phys rd m) = r ∧ MultiplyStatus sf (r.getLsbD 31) (r == 0) s t ∧
      Frame [phys rd m] [31, 30] s t

/-- MLA: Rd = Rm x Rs + Rn modulo 2^32, N and Z if S, nothing else changes. Derived from: 42_multiply.md
section 2, MLA (R172; wrap of the sum by decision D12; log 20). -/
def Obligations.MlaAddsTheAccumulatorRegister : Prop :=
  ∀ (c : Cond) (sf : Bool) (rd rn rs rm : RegIdx) (s : State) (m : Mode),
    passes c s.cpsr = true → modeOf s.cpsr = some m →
    ∃ (t : State) (r : Word), exec (.mla c sf rd rn rs rm) s = .next t ∧
      r.toNat = ((s.getPhys (phys rm m)).toNat * (s.getPhys (phys rs m)).toNat +
        (s.getPhys (phys rn m)).toNat) % 2 ^ 32 ∧
      t.getPhys (phys rd m) = r ∧ MultiplyStatus sf (r.getLsbD 31) (r == 0) s t ∧
      Frame [phys rd m] [31, 30] s t

/-- UMULL: RdHi:RdLo is the exact unsigned product, N and Z of all 64 bits if S, nothing else changes.
Derived from: 42_multiply.md section 2, UMULL (R173; RdHi = RdLo refused by decision D11, log 23). -/
def Obligations.UmullGivesTheExactUnsignedProduct : Prop :=
  ∀ (c : Cond) (sf : Bool) (rdHi rdLo rs rm : RegIdx) (s : State) (m : Mode),
    passes c s.cpsr = true → modeOf s.cpsr = some m → rdHi ≠ rdLo →
    ∃ (t : State) (hi lo : Word), exec (.umull c sf rdHi rdLo rs rm) s = .next t ∧
      hi.toNat * 2 ^ 32 + lo.toNat =
        (s.getPhys (phys rm m)).toNat * (s.getPhys (phys rs m)).toNat ∧
      t.getPhys (phys rdHi m) = hi ∧ t.getPhys (phys rdLo m) = lo ∧
      MultiplyStatus sf (hi.getLsbD 31) (hi == 0 && lo == 0) s t ∧
      Frame [phys rdHi m, phys rdLo m] [31, 30] s t

/-- UMLAL: RdHi:RdLo = Rm x Rs + RdHi:RdLo modulo 2^64, N and Z if S, nothing else changes. Derived from:
42_multiply.md section 2, UMLAL (R174; wrap by decision D12, log 20). -/
def Obligations.UmlalAddsTheUnsignedAccumulator : Prop :=
  ∀ (c : Cond) (sf : Bool) (rdHi rdLo rs rm : RegIdx) (s : State) (m : Mode),
    passes c s.cpsr = true → modeOf s.cpsr = some m → rdHi ≠ rdLo →
    ∃ (t : State) (hi lo : Word), exec (.umlal c sf rdHi rdLo rs rm) s = .next t ∧
      hi.toNat * 2 ^ 32 + lo.toNat =
        ((s.getPhys (phys rm m)).toNat * (s.getPhys (phys rs m)).toNat +
          ((s.getPhys (phys rdHi m)).toNat * 2 ^ 32 + (s.getPhys (phys rdLo m)).toNat)) % 2 ^ 64 ∧
      t.getPhys (phys rdHi m) = hi ∧ t.getPhys (phys rdLo m) = lo ∧
      MultiplyStatus sf (hi.getLsbD 31) (hi == 0 && lo == 0) s t ∧
      Frame [phys rdHi m, phys rdLo m] [31, 30] s t

/-- SMULL: RdHi:RdLo is the exact signed product in two's complement, N and Z if S, nothing else changes.
Derived from: 42_multiply.md section 2, SMULL (R175; RdHi = RdLo refused by decision D11, log 23). -/
def Obligations.SmullGivesTheExactSignedProduct : Prop :=
  ∀ (c : Cond) (sf : Bool) (rdHi rdLo rs rm : RegIdx) (s : State) (m : Mode),
    passes c s.cpsr = true → modeOf s.cpsr = some m → rdHi ≠ rdLo →
    ∃ (t : State) (hi lo : Word), exec (.smull c sf rdHi rdLo rs rm) s = .next t ∧
      (hi ++ lo).toInt = (s.getPhys (phys rm m)).toInt * (s.getPhys (phys rs m)).toInt ∧
      t.getPhys (phys rdHi m) = hi ∧ t.getPhys (phys rdLo m) = lo ∧
      MultiplyStatus sf (hi.getLsbD 31) (hi == 0 && lo == 0) s t ∧
      Frame [phys rdHi m, phys rdLo m] [31, 30] s t

/-- SMLAL: RdHi:RdLo = signed Rm x Rs + signed RdHi:RdLo, wrapping, N and Z if S, nothing else changes.
Derived from: 42_multiply.md section 2, SMLAL (R176; wrap by decision D12, log 20). -/
def Obligations.SmlalAddsTheSignedAccumulator : Prop :=
  ∀ (c : Cond) (sf : Bool) (rdHi rdLo rs rm : RegIdx) (s : State) (m : Mode),
    passes c s.cpsr = true → modeOf s.cpsr = some m → rdHi ≠ rdLo →
    ∃ (t : State) (hi lo : Word), exec (.smlal c sf rdHi rdLo rs rm) s = .next t ∧
      (hi ++ lo).toInt = Int.bmod ((s.getPhys (phys rm m)).toInt * (s.getPhys (phys rs m)).toInt +
        (s.getPhys (phys rdHi m) ++ s.getPhys (phys rdLo m)).toInt) (2 ^ 64) ∧
      t.getPhys (phys rdHi m) = hi ∧ t.getPhys (phys rdLo m) = lo ∧
      MultiplyStatus sf (hi.getLsbD 31) (hi == 0 && lo == 0) s t ∧
      Frame [phys rdHi m, phys rdLo m] [31, 30] s t

/-- With S = 1 a multiply sets N and Z from the value it wrote; with S = 0 CPSR is unchanged; C and V never
change. Formalises: R180, R181. -/
def Obligations.MultiplyFlagsAreNegativeAndZeroOfTheResult : Prop :=
  ∀ (c : Cond) (sf : Bool) (d n rs rm : RegIdx) (s t : State) (m : Mode),
    passes c s.cpsr = true → modeOf s.cpsr = some m →
    (∀ i ∈ [Instr.mul c sf d n rs rm, .mla c sf d n rs rm], exec i s = .next t →
      (sf = true → flagN t.cpsr = (t.getPhys (phys d m)).getLsbD 31 ∧
        flagZ t.cpsr = (t.getPhys (phys d m) == 0)) ∧
      (sf = false → t.cpsr = s.cpsr) ∧ flagC t.cpsr = flagC s.cpsr ∧ flagV t.cpsr = flagV s.cpsr) ∧
    (∀ i ∈ [Instr.umull c sf d n rs rm, .umlal c sf d n rs rm, .smull c sf d n rs rm,
        .smlal c sf d n rs rm], exec i s = .next t →
      (sf = true →
        flagN t.cpsr = (t.getPhys (phys d m) ++ t.getPhys (phys n m)).getLsbD 63 ∧
        flagZ t.cpsr = ((t.getPhys (phys d m) ++ t.getPhys (phys n m) : BitVec 64) == 0)) ∧
      (sf = false → t.cpsr = s.cpsr) ∧ flagC t.cpsr = flagC s.cpsr ∧ flagV t.cpsr = flagV s.cpsr)

/-- SMULL and UMULL of equal operands agree in the low word, which is MUL's; the high words differ by the
sign corrections. Derived from: 42_multiply.md section 5 (R186 (f), marked derived there). -/
def Obligations.SignedAndUnsignedProductsDifferInTheHighWord : Prop :=
  ∀ (c : Cond) (sf : Bool) (rdHi rdLo rs rm : RegIdx) (s : State) (m : Mode),
    passes c s.cpsr = true → modeOf s.cpsr = some m → rdHi ≠ rdLo →
    ∃ t u v : State, exec (.umull c sf rdHi rdLo rs rm) s = .next t ∧
      exec (.smull c sf rdHi rdLo rs rm) s = .next u ∧ exec (.mul c sf rdLo 0 rs rm) s = .next v ∧
      u.getPhys (phys rdLo m) = t.getPhys (phys rdLo m) ∧
      v.getPhys (phys rdLo m) = t.getPhys (phys rdLo m) ∧
      u.getPhys (phys rdHi m) = t.getPhys (phys rdHi m) -
        (if (s.getPhys (phys rm m)).getLsbD 31 then s.getPhys (phys rs m) else 0) -
        (if (s.getPhys (phys rs m)).getLsbD 31 then s.getPhys (phys rm m) else 0)

/-- A long multiply with RdHi = RdLo is refused before any register is read. Derived from: 42_multiply.md
section 4 (R184, by decision D11; log 23), 60_exceptions.md section 3. -/
def Obligations.LongMultiplyIntoOneRegisterIsRefused : Prop :=
  ∀ (c : Cond) (sf : Bool) (rd rs rm : RegIdx) (s : State), passes c s.cpsr = true →
    ∀ i ∈ [Instr.umull c sf rd rd rs rm, .umlal c sf rd rd rs rm, .smull c sf rd rd rs rm,
        .smlal c sf rd rd rs rm],
      exec i s = .refused .longMultiplySameDestination

/-- The thirteen unexecuted categories: Fatal(UnsupportedOperation, word) when the condition passes, next s
when it fails. Formalises: R200. -/
def Obligations.UnexecutedCategoriesFaultWhenTheirConditionPasses : Prop :=
  ∀ (c : Cond) (u1 v1 : BitVec 1) (u4 l4 : BitVec 4) (u5 : BitVec 5) (m8 : BitVec 8) (m12 : BitVec 12)
    (l20 : BitVec 20) (k24 : BitVec 24) (u26 : BitVec 26) (s : State),
    ∀ i ∈ [Instr.swi c k24, .ldm c u4 l20, .stm c u4 l20, .ldr c u5 l20, .str c u5 l20, .ldrh c u4
        m12 l4, .ldrsb c u4 m12 l4, .ldrsh c u4 m12 l4, .strh c u4 m12 l4, .mrs c u1 l4, .msr c
        u1 v1 l4 m12, .swp c u1 m8 l4, .dp c u26],
      (passes c s.cpsr = true → exec i s = .fault (.unsupportedOperation (encode i) none)) ∧
      (passes c s.cpsr = false → exec i s = .next s ∧ pcWritten i s = false)

/-- UMAAL: Fatal(UnsupportedOperation, word, 0b0010) when the condition passes, next s when it fails.
Formalises: R177. -/
def Obligations.UmaalIsUnsupported : Prop :=
  ∀ (c : Cond) (sf : Bool) (rdHi rdLo rs rm : RegIdx) (s : State),
    (passes c s.cpsr = true → exec (.umaal c sf rdHi rdLo rs rm) s =
      .fault (.unsupportedOperation (encode (.umaal c sf rdHi rdLo rs rm)) (some 0b0010))) ∧
    (passes c s.cpsr = false → exec (.umaal c sf rdHi rdLo rs rm) s = .next s)

/-- The nine unnamed sub-operations: Fatal(UnsupportedOperation, word, field) when the condition passes,
next s when it fails. Derived from: 42_multiply.md section 3 (R178, by decision D10; log 19). -/
def Obligations.UnnamedSubOperationsAreUnsupported : Prop :=
  ∀ (c : Cond) (sf : Bool) (d n rs rm : BitVec 4) (s : State),
    ∀ p ∈ [(Instr.mulSub0011 c sf d n rs rm, 0b0011#4), (.mulSub1000 c sf d n rs rm, 0b1000#4),
        (.mulSub1001 c sf d n rs rm, 0b1001#4), (.mulSub1010 c sf d n rs rm, 0b1010#4),
        (.mulSub1011 c sf d n rs rm, 0b1011#4), (.mulSub1100 c sf d n rs rm, 0b1100#4),
        (.mulSub1101 c sf d n rs rm, 0b1101#4), (.mulSub1110 c sf d n rs rm, 0b1110#4),
        (.mulSub1111 c sf d n rs rm, 0b1111#4)],
      (passes c s.cpsr = true →
        exec p.1 s = .fault (.unsupportedOperation (encode p.1) (some p.2))) ∧
      (passes c s.cpsr = false → exec p.1 s = .next s)

/-- A step that fetches a word runs the instruction it decodes to and advances r15 by 4 unless the step
wrote it. Derived from: 20_memory.md section 4 (R67, R68, by decision D15; log 16), 40_step_and_condition.md
section 1. -/
def Obligations.StepRunsTheDecodedInstruction : Prop :=
  ∀ (s : State) (w : Word) (i : Instr), Fetches s w → decode w = .ok i → step s = sequenced i s

/-- A step is refused, in this order: halted, Alternate state, misaligned r15, no instruction at r15.
Derived from: 20_memory.md section 4 (R67, by decisions D14 and D17; logs 8, 18). -/
def Obligations.StepRefusesWhatItCannotFetch : Prop :=
  ∀ s : State,
    (s.halted = true → step s = .refused .halted) ∧
    (s.halted = false → instructionState s.cpsr = .alternate → step s = .refused .alternateState) ∧
    (s.halted = false → instructionState s.cpsr = .primary → s.pPc.extractLsb' 0 2 ≠ 0 →
      step s = .refused .misalignedFetch) ∧
    (s.halted = false → instructionState s.cpsr = .primary → s.pPc.extractLsb' 0 2 = 0 →
      Memory.readWord s.imem s.pPc = none → step s = .refused .noInstruction)

/-- A fetched word of the coprocessor space ends the run in UnrecognizedInstruction, whatever its condition,
the flags and the mode field. Derived from: 60_exceptions.md sections 1 and 3 (R221, R228; order by decision
D9; log 12). -/
def Obligations.UnrecognizedWordFaultsWhateverItsCondition : Prop :=
  ∀ (s : State) (w : Word), Fetches s w → w.extractLsb' 24 4 ∈ [0b1100#4, 0b1101#4, 0b1110#4] →
    step s = .fault (.unrecognizedInstruction w) ∧ coreStep w s = .fault (.unrecognizedInstruction w)

/-- No step changes C, V, bits 27 to 6, the mode field, a saved-status slot, the instruction memory or a
bank the mode does not select. Derived from: 40_step_and_condition.md section 3 (R134, marked derived
there), 20_memory.md section 6. -/
def Obligations.StepLeavesAllOtherStateUnchanged : Prop :=
  ∀ s t : State, step s = .next t →
    CpsrFrame [31, 30, 5] s t ∧ RestFrame s t ∧
    ∀ q, t.getPhys q ≠ s.getPhys q → q = .pc ∨ ∃ m i, modeOf s.cpsr = some m ∧ q = phys i m

/-- Every step keeps the invariant: canonical memory, a legal mode, not halted, Alternate only with an odd
r15. Derived from: 40_step_and_condition.md section 3, 41_branch.md, BranchExchange, 10_state.md section 4. -/
def Obligations.EveryStepKeepsTheInvariant : Prop :=
  ∀ s t : State, Inv s → step s = .next t → Inv t

/-- The state after reset meets the invariant, for every OPEN parameter whose memory is in canonical form.
Derived from: 70_reset_and_hazards.md section 1 (log 4). -/
def Obligations.ResetMeetsTheInvariant : Prop :=
  (∀ p : OpenParams, Memory.wf p.imem → Inv (State.resetWith p)) ∧ Inv State.reset

/-- The mode field, C, V and bits 27 to 6 change only by a raw status write of the host. Derived from:
60_exceptions.md section 5 (R234), 10_state.md section 4. -/
def Obligations.OnlyTheRawStatusPortChangesTheMode : Prop :=
  ∀ s t : State,
    (step s = .next t → modeOf t.cpsr = modeOf s.cpsr ∧ CpsrFrame [31, 30, 5] s t) ∧
    (∀ a : HostAction, hostAct a s = .next t →
      (t.cpsr ≠ s.cpsr → a = .writeStatus t.cpsr) ∧ RestFrame s t ∧
      (RegFrame [] s t ∨ ∃ i v m, a = .writeRegister i v ∧ modeOf s.cpsr = some m ∧
        RegFrame [phys (BitVec.ofNat 4 i) m] s t ∧ t.getPhys (phys (BitVec.ofNat 4 i) m) = v))

/-- What an instruction does to what the mode can see depends only on what the mode can see. Derived from:
10_state.md section 2 (R30, R31), 60_exceptions.md section 5 (R233, R236). -/
def Obligations.HiddenBanksDoNotInfluenceExecution : Prop :=
  ∀ (i : Instr) (s s2 : State) (m : Mode), modeOf s.cpsr = some m → s2.cpsr = s.cpsr →
    (∀ r, s2.getPhys (phys r m) = s.getPhys (phys r m)) →
    (∀ t, exec i s = .next t → ∃ t2, exec i s2 = .next t2 ∧ t2.cpsr = t.cpsr ∧
      ∀ r, t2.getPhys (phys r m) = t.getPhys (phys r m)) ∧
    (∀ f, exec i s = .fault f → exec i s2 = .fault f) ∧
    (∀ f, exec i s = .refused f → exec i s2 = .refused f)

/-- The word EA000000 at r15 is a fixed point of the sequencer. Derived from: 20_memory.md section 4 (R69,
by decision D15; log 16). -/
def Obligations.BranchToItselfIsAFixedPoint : Prop :=
  ∀ (s : State) (m : Mode), Fetches s 0xEA000000 → modeOf s.cpsr = some m → step s = .next s

/-- A step that did not write r15 leaves it 4 higher, modulo 2^32. Derived from: 20_memory.md section 4
(R68, by decision D15; log 16), 40_step_and_condition.md section 2 (R127; log 15). -/
def Obligations.PcAdvancesByFourUnlessWritten : Prop :=
  (∀ (s t : State) (w : Word) (i : Instr), Fetches s w → decode w = .ok i → pcWritten i s = false →
    step s = .next t → t.pPc = s.pPc + 4) ∧
  (∀ (i : Instr) (s : State), pcWritten i s = true ↔ passes i.cond s.cpsr = true ∧
    ((∃ c off, i = .b c off) ∨ (∃ c off, i = .bl c off) ∨ (∃ c rm, i = .bx c rm) ∨
      (∃ c sf n rs rm, i = .mul c sf 15 n rs rm) ∨ (∃ c sf n rs rm, i = .mla c sf 15 n rs rm) ∨
      (∃ c sf d n rs rm, (d = 15 ∨ n = 15) ∧ i ∈ [Instr.umull c sf d n rs rm,
        .umlal c sf d n rs rm, .smull c sf d n rs rm, .smlal c sf d n rs rm])))

/-- After a step that ended in Fatal or Refused no step and no port action runs, and the step wrote nothing.
Derived from: 00_scope.md section 5 (R12, by decision D8; log 8), 40_step_and_condition.md section 3. -/
def Obligations.NothingRunsAfterAFatalOrRefusedStep : Prop :=
  ∀ s : State, (∀ t, step s ≠ .next t) →
    (s.record (step s)).halted = true ∧ RegFrame [] s (s.record (step s)) ∧
    (s.record (step s)).cpsr = s.cpsr ∧ (s.record (step s)).spsr = s.spsr ∧
    (s.record (step s)).imem = s.imem ∧ step (s.record (step s)) = .refused .halted ∧
    ∀ a : HostAction, hostAct a (s.record (step s)) = .refused .halted

/-- A word placed by withFetchWord is what the next step fetches, decodes and runs. Derived from:
20_memory.md sections 3 and 4 (R63, R66, R67, by decision D16; logs 5, 9). -/
def Obligations.LoadedWordIsTheNextInstructionRun : Prop :=
  ∀ (s : State) (nbits w : Nat),
    (∀ i, decodeTableWord nbits w = some i →
      step (s.withFetchWord nbits w) = sequenced i (s.withFetchWord nbits w)) ∧
    (∀ v, Fetches s v → RegFrame [] s (s.withFetchWord nbits w) ∧
      (s.withFetchWord nbits w).cpsr = s.cpsr ∧ (s.withFetchWord nbits w).spsr = s.spsr ∧
      (s.withFetchWord nbits w).halted = s.halted)
end

