-- ==== Sys2Proof/Laws/Bits.lean ====
section
/-! SUPPORT. Bit reasoning: a masked comparison and a field extraction as statements about single bits, the
bits of a placed field, and the bits of a status word after one bit is written. -/

namespace Sys2Proof

/-- A masked comparison holds when it holds bit by bit. -/
theorem and_mask_eq_iff (w m v : Word) :
    w &&& m = v ↔ ∀ i, i < 32 → (w.getLsbD i && m.getLsbD i) = v.getLsbD i := by
  constructor
  · rintro rfl i _; simp
  · intro h; exact BitVec.eq_of_getLsbD_eq fun i hi => by simpa using h i hi

/-- A field has a value when its bits are the value's bits. -/
theorem extract_eq_iff {n : Nat} (w : BitVec n) (lo len : Nat) (v : BitVec len) :
    w.extractLsb' lo len = v ↔ ∀ i, i < len → w.getLsbD (lo + i) = v.getLsbD i := by
  constructor
  · rintro rfl i hi; simp [hi]
  · intro h; exact BitVec.eq_of_getLsbD_eq fun i hi => by simpa [hi] using h i hi

/-- A bit of a placed field, as the bit of the field it comes from. -/
theorem getLsbD_place {n : Nat} (lo : Nat) (f : BitVec n) (i : Nat) (hi : i < 32) :
    (place lo f).getLsbD i = (decide (lo ≤ i) && f.getLsbD (i - lo)) := by
  by_cases h : lo ≤ i
  · have : i - lo < 32 := by omega
    simp [place, hi, h]
  · simp [place, hi, h]

theorem getElem_place {n : Nat} (lo : Nat) (f : BitVec n) (i : Nat) (hi : i < 32) :
    (place lo f)[i] = (decide (lo ≤ i) && f.getLsbD (i - lo)) := by
  rw [← BitVec.getLsbD_eq_getElem, getLsbD_place lo f i hi]

/-- Every condition has a 4-bit code and every code a condition (R124). -/
@[simp] theorem ofBits_bits (c : Cond) : Cond.ofBits c.bits = c := by cases c <;> rfl

@[simp] theorem bits_ofBits (b : BitVec 4) : (Cond.ofBits b).bits = b := by
  revert b; decide

end Sys2Proof

namespace Sys2Proof.Machine

/-- The bits of a word after one bit is written. -/
theorem getLsbD_setBit (k : Nat) (b : Bool) (w : Word) (i : Nat) (hk : k < 32) :
    (setBit k b w).getLsbD i = if i = k then b else w.getLsbD i := by
  by_cases hi : i < 32
  · have hk' : decide (k = i) = decide (i = k) := by simp [eq_comm]
    cases b <;> by_cases h : i = k <;>
      simp_all [setBit]
  · have h : ¬ i = k := by omega
    have hw : ∀ v : Word, v.getLsbD i = false := fun v => BitVec.getLsbD_of_ge v i (by omega)
    simp [h, hw]

end Sys2Proof.Machine
end

