-- ==== Sys2Proof/Laws/Flags.lean ====
section
/-! SUPPORT. What the status word's operations change (spec/10_state.md R36, R40): the bit they write, and
no other; in particular none of them touches the mode field, C or V. -/

namespace Sys2Proof.Machine

theorem getLsbD_setFlagN (b : Bool) (w : Word) (i : Nat) :
    (setFlagN b w).getLsbD i = if i = 31 then b else w.getLsbD i := getLsbD_setBit 31 b w i (by omega)

theorem getLsbD_setFlagZ (b : Bool) (w : Word) (i : Nat) :
    (setFlagZ b w).getLsbD i = if i = 30 then b else w.getLsbD i := getLsbD_setBit 30 b w i (by omega)

theorem getLsbD_setInstructionState (k : InstrSet) (w : Word) (i : Nat) :
    (setInstructionState k w).getLsbD i = if i = 5 then k == .alternate else w.getLsbD i := by
  cases k
  · exact getLsbD_setBit 5 false w i (by omega)
  · exact getLsbD_setBit 5 true w i (by omega)

/-- Two status words with the same bits 4 to 0 have the same mode. -/
theorem modeField_congr {v w : Word} (h : ∀ i, i < 5 → v.getLsbD i = w.getLsbD i) :
    modeField v = modeField w := by
  apply BitVec.eq_of_getLsbD_eq
  intro i hi
  simpa [modeField, hi] using h i hi

@[simp] theorem modeField_setFlagN (b : Bool) (w : Word) : modeField (setFlagN b w) = modeField w :=
  modeField_congr fun i hi => by rw [getLsbD_setFlagN, if_neg (by omega)]

@[simp] theorem modeField_setFlagZ (b : Bool) (w : Word) : modeField (setFlagZ b w) = modeField w :=
  modeField_congr fun i hi => by rw [getLsbD_setFlagZ, if_neg (by omega)]

@[simp] theorem modeField_setInstructionState (k : InstrSet) (w : Word) :
    modeField (setInstructionState k w) = modeField w :=
  modeField_congr fun i hi => by rw [getLsbD_setInstructionState, if_neg (by omega)]

@[simp] theorem modeField_multiplyFlags (s n z : Bool) (w : Word) :
    modeField (multiplyFlags s n z w) = modeField w := by
  cases s <;> simp [multiplyFlags]

@[simp] theorem modeOf_setInstructionState (k : InstrSet) (w : Word) :
    modeOf (setInstructionState k w) = modeOf w := by simp [modeOf]

@[simp] theorem modeOf_multiplyFlags (s n z : Bool) (w : Word) :
    modeOf (multiplyFlags s n z w) = modeOf w := by simp [modeOf]

/-- A multiply's status word, bit by bit: N and Z when S = 1, every other bit as it was (R180, R181). -/
theorem getLsbD_multiplyFlags (s n z : Bool) (w : Word) (i : Nat) :
    (multiplyFlags s n z w).getLsbD i =
      if s ∧ i = 31 then n else if s ∧ i = 30 then z else w.getLsbD i := by
  cases s
  · simp [multiplyFlags]
  · simp only [multiplyFlags, if_true, getLsbD_setFlagZ, getLsbD_setFlagN, true_and]
    split
    · rename_i h; subst h; rfl
    · rfl

@[simp] theorem instructionState_setInstructionState (k : InstrSet) (w : Word) :
    instructionState (setInstructionState k w) = k := by
  unfold instructionState
  rw [getLsbD_setInstructionState]
  cases k <;> rfl

@[simp] theorem instructionState_multiplyFlags (s n z : Bool) (w : Word) :
    instructionState (multiplyFlags s n z w) = instructionState w := by
  have h : (multiplyFlags s n z w).getLsbD 5 = w.getLsbD 5 := by
    rw [getLsbD_multiplyFlags, if_neg (by simp), if_neg (by simp)]
  simp only [instructionState, h]

@[simp] theorem flagN_multiplyFlags (s n z : Bool) (w : Word) :
    flagN (multiplyFlags s n z w) = if s then n else flagN w := by
  unfold flagN
  rw [getLsbD_multiplyFlags]
  cases s <;> rfl

@[simp] theorem flagZ_multiplyFlags (s n z : Bool) (w : Word) :
    flagZ (multiplyFlags s n z w) = if s then z else flagZ w := by
  unfold flagZ
  rw [getLsbD_multiplyFlags]
  cases s <;> rfl

@[simp] theorem flagC_multiplyFlags (s n z : Bool) (w : Word) :
    flagC (multiplyFlags s n z w) = flagC w := by
  unfold flagC
  rw [getLsbD_multiplyFlags, if_neg (by simp), if_neg (by simp)]

@[simp] theorem flagV_multiplyFlags (s n z : Bool) (w : Word) :
    flagV (multiplyFlags s n z w) = flagV w := by
  unfold flagV
  rw [getLsbD_multiplyFlags, if_neg (by simp), if_neg (by simp)]

end Sys2Proof.Machine
end

