-- ==== Sys2Proof/Laws/State.lean ====
section
/-! SUPPORT. One lemma per field of State per update, each true by definition, so that no proof unfolds a
record update. The updates are `setPhys` (one physical general word) and `setCpsr` (the status word). -/

namespace Sys2Proof.Machine

@[simp] theorem setCpsr_cpsr (s : State) (w : Word) : (s.setCpsr w).cpsr = w := rfl
@[simp] theorem setCpsr_pPc (s : State) (w : Word) : (s.setCpsr w).pPc = s.pPc := rfl
@[simp] theorem setCpsr_spsr (s : State) (w : Word) : (s.setCpsr w).spsr = s.spsr := rfl
@[simp] theorem setCpsr_halted (s : State) (w : Word) : (s.setCpsr w).halted = s.halted := rfl
@[simp] theorem setCpsr_imem (s : State) (w : Word) : (s.setCpsr w).imem = s.imem := rfl
@[simp] theorem setCpsr_getPhys (s : State) (w : Word) (q : PhysReg) :
    (s.setCpsr w).getPhys q = s.getPhys q := rfl
@[simp] theorem setCpsr_self (s : State) : s.setCpsr s.cpsr = s := rfl
@[simp] theorem setCpsr_setCpsr (s : State) (v w : Word) : (s.setCpsr v).setCpsr w = s.setCpsr w := rfl

@[simp] theorem setPhys_cpsr (s : State) (q : PhysReg) (v : Word) : (s.setPhys q v).cpsr = s.cpsr := by
  cases q <;> rfl
@[simp] theorem setPhys_spsr (s : State) (q : PhysReg) (v : Word) : (s.setPhys q v).spsr = s.spsr := by
  cases q <;> rfl
@[simp] theorem setPhys_halted (s : State) (q : PhysReg) (v : Word) :
    (s.setPhys q v).halted = s.halted := by cases q <;> rfl
@[simp] theorem setPhys_imem (s : State) (q : PhysReg) (v : Word) : (s.setPhys q v).imem = s.imem := by
  cases q <;> rfl
@[simp] theorem setPhys_pc_pPc (s : State) (v : Word) : (s.setPhys .pc v).pPc = v := rfl
theorem getPhys_pc (s : State) : s.getPhys .pc = s.pPc := rfl

theorem setPhys_setCpsr (s : State) (q : PhysReg) (v w : Word) :
    (s.setCpsr w).setPhys q v = (s.setPhys q v).setCpsr w := by cases q <;> rfl

/-- Reading the word just written gives the value written. -/
@[simp] theorem getPhys_setPhys_self (s : State) (q : PhysReg) (v : Word) :
    (s.setPhys q v).getPhys q = v := by
  cases q <;> simp [State.getPhys, State.setPhys]

/-- Writing one physical word leaves every other physical word alone. -/
theorem getPhys_setPhys_of_ne (s : State) {p q : PhysReg} (v : Word) (h : q ≠ p) :
    (s.setPhys p v).getPhys q = s.getPhys q := by
  cases p <;> cases q <;> simp_all [State.getPhys, State.setPhys, Vector.getElem_set, Fin.ext_iff]
  all_goals omega

/-- Both cases of a read after a write. -/
theorem getPhys_setPhys (s : State) (p q : PhysReg) (v : Word) :
    (s.setPhys p v).getPhys q = if q = p then v else s.getPhys q := by
  by_cases h : q = p
  · subst h; simp
  · simp [h, getPhys_setPhys_of_ne s v h]

theorem setPhys_pPc_of_ne (s : State) {p : PhysReg} (v : Word) (h : p ≠ .pc) :
    (s.setPhys p v).pPc = s.pPc := getPhys_setPhys_of_ne s v (Ne.symm h)

end Sys2Proof.Machine
end

