-- ==== Sys2Proof/Laws/Ops.lean ====
section
/-! SUPPORT. One spec lemma per shared operation: what it answers, and everything it can have done when it
answers a next state. The proofs about instructions cite these and do not unfold the operations. -/

namespace Sys2Proof.Machine

variable {α β : Type} {s t : State}

@[simp] theorem andThen_next (a : α) (k : α → Result β) : andThen (.next a) k = k a := rfl
@[simp] theorem andThen_fault (f : Fault) (k : α → Result β) : andThen (.fault f) k = .fault f := rfl
@[simp] theorem andThen_refused (r : Refusal) (k : α → Result β) :
    andThen (.refused r) k = .refused r := rfl

/-- A sequence answers next exactly when both its parts do. -/
theorem andThen_eq_next {r : Result α} {k : α → Result β} {b : β} :
    andThen r k = .next b ↔ ∃ a, r = .next a ∧ k a = .next b := by
  cases r <;> simp

theorem currentMode_of_some {m : Mode} (word : Option Word) (h : modeOf s.cpsr = some m) :
    currentMode word s = .next m := by simp [currentMode, h]

theorem currentMode_of_none (word : Option Word) (h : modeOf s.cpsr = none) :
    currentMode word s = .fault (.invalidMode word (modeField s.cpsr)) := by simp [currentMode, h]

theorem readReg_of_some {m : Mode} (word : Option Word) (i : RegIdx) (h : modeOf s.cpsr = some m) :
    readReg word i s = .next (s.getPhys (phys i m)) := by
  simp [readReg, currentMode_of_some word h]

theorem readReg_of_none (word : Option Word) (i : RegIdx) (h : modeOf s.cpsr = none) :
    readReg word i s = .fault (.invalidMode word (modeField s.cpsr)) := by
  simp [readReg, currentMode_of_none word h]

theorem writeReg_of_some {m : Mode} (word : Option Word) (i : RegIdx) (v : Word)
    (h : modeOf s.cpsr = some m) : writeReg word i v s = .next (s.setPhys (phys i m) v) := by
  simp [writeReg, currentMode_of_some word h]

theorem writeReg_of_none (word : Option Word) (i : RegIdx) (v : Word) (h : modeOf s.cpsr = none) :
    writeReg word i v s = .fault (.invalidMode word (modeField s.cpsr)) := by
  simp [writeReg, currentMode_of_none word h]

/-- A register write changes one physical word, the one the current mode selects (R29). -/
theorem writeReg_eq_next {word : Option Word} {i : RegIdx} {v : Word} :
    writeReg word i v s = .next t ↔ ∃ m, modeOf s.cpsr = some m ∧ t = s.setPhys (phys i m) v := by
  cases h : modeOf s.cpsr with
  | none => simp [writeReg_of_none word i v h]
  | some m => simp [writeReg_of_some word i v h, eq_comm]

/-- A register read yields the word the current mode selects (R28). -/
theorem readReg_eq_next {word : Option Word} {i : RegIdx} {v : Word} :
    readReg word i s = .next v ↔ ∃ m, modeOf s.cpsr = some m ∧ v = s.getPhys (phys i m) := by
  cases h : modeOf s.cpsr with
  | none => simp [readReg_of_none word i h]
  | some m => simp [readReg_of_some word i h, eq_comm]

theorem whenPasses_of_true {c : Cond} (body : Result State) (h : passes c s.cpsr = true) :
    whenPasses c s body = body := by simp [whenPasses, h]

theorem whenPasses_of_false {c : Cond} (body : Result State) (h : passes c s.cpsr = false) :
    whenPasses c s body = .next s := by simp [whenPasses, h]

/-- The gate answers next in two ways: nothing happened, or the body did (R126). -/
theorem whenPasses_eq_next {c : Cond} {body : Result State} :
    whenPasses c s body = .next t ↔
      (passes c s.cpsr = false ∧ t = s) ∨ (passes c s.cpsr = true ∧ body = .next t) := by
  cases h : passes c s.cpsr <;> simp [whenPasses, h, eq_comm]

theorem unsupported_of_true {c : Cond} (word : Word) (field : Option (BitVec 4))
    (h : passes c s.cpsr = true) :
    unsupported word field c s = .fault (.unsupportedOperation word field) := by
  simp [unsupported, whenPasses_of_true _ h]

theorem unsupported_of_false {c : Cond} (word : Word) (field : Option (BitVec 4))
    (h : passes c s.cpsr = false) : unsupported word field c s = .next s := by
  simp [unsupported, whenPasses_of_false _ h]

/-- An operation without a handler never changes anything (R200). -/
theorem unsupported_eq_next {c : Cond} {word : Word} {field : Option (BitVec 4)} :
    unsupported word field c s = .next t ↔ passes c s.cpsr = false ∧ t = s := by
  simp [unsupported, whenPasses_eq_next]

end Sys2Proof.Machine
end

