-- ==== Sys2Proof/Laws/Registers.lean ====
section
/-! SUPPORT. The banking function (spec/10_state.md R26) and the logical registers it names. -/

namespace Sys2Proof.Machine

/-- r15 is `P_pc` in every mode (R25). -/
@[simp] theorem phys_pc (m : Mode) : phys pc m = .pc := by cases m <;> rfl

@[simp] theorem phys_fifteen (m : Mode) : phys 15 m = .pc := phys_pc m

/-- Two different logical registers never share a physical word, whatever the modes. -/
theorem phys_ne_of_ne {i j : RegIdx} (h : i ≠ j) (m n : Mode) : phys i m ≠ phys j n := by
  revert i j
  cases m <;> cases n <;> decide

theorem phys_inj {i j : RegIdx} {m : Mode} : phys i m = phys j m ↔ i = j :=
  ⟨fun h => by_contra fun hne => phys_ne_of_ne hne m m h, fun h => h ▸ rfl⟩

/-- Only r15 is the program counter. -/
theorem phys_eq_pc {i : RegIdx} {m : Mode} : phys i m = .pc ↔ i = pc := by
  rw [← phys_pc m, phys_inj]

end Sys2Proof.Machine
end

