-- ==== Sys2Proof/Laws/Exec.lean ====
section
/-! SUPPORT. One answer lemma per meaning: the next state of an executed instruction whose condition passes in
a valid mode, written out; and the error of the same instruction under an invalid mode field (spec/10_state.md
R27). The proofs about instructions cite these and unfold no meaning. -/

namespace Sys2Proof.Machine

variable {s : State} {m : Mode} {c : Cond}

theorem execB_next (offset24 : BitVec 24) (h : passes c s.cpsr = true) (hm : modeOf s.cpsr = some m) :
    execB c offset24 s = .next (s.setPhys .pc (s.pPc + branchOffset offset24)) := by
  simp [execB, whenPasses_of_true _ h, readReg_of_some _ _ hm, writeReg_of_some _ _ _ hm, getPhys_pc]

theorem execBl_next (offset24 : BitVec 24) (h : passes c s.cpsr = true) (hm : modeOf s.cpsr = some m) :
    execBl c offset24 s =
      .next ((s.setPhys (phys lr m) (s.pPc + 4)).setPhys .pc (s.pPc + branchOffset offset24)) := by
  have hm' : modeOf (s.setPhys (phys lr m) (s.pPc + 4)).cpsr = some m := by simpa using hm
  simp only [execBl, whenPasses_of_true _ h, readReg_of_some _ _ hm, writeReg_of_some _ _ _ hm,
    andThen_next, phys_pc, getPhys_pc, writeReg_of_some _ _ _ hm']

theorem execBx_next (rm : RegIdx) (h : passes c s.cpsr = true) (hm : modeOf s.cpsr = some m) :
    execBx c rm s =
      .next ((s.setCpsr (setInstructionState
        (if (s.getPhys (phys rm m)).getLsbD 0 then .alternate else .primary) s.cpsr)).setPhys .pc
          (s.getPhys (phys rm m))) := by
  have hm' : ∀ k, modeOf (s.setCpsr (setInstructionState k s.cpsr)).cpsr = some m := by
    intro k; simpa using hm
  simp only [execBx, whenPasses_of_true _ h, readReg_of_some _ _ hm, andThen_next,
    writeReg_of_some _ _ _ (hm' _), phys_pc]

theorem finishShort_of_some (word : Option Word) (sf : Bool) (rd : RegIdx) (r : Word)
    (hm : modeOf s.cpsr = some m) :
    finishShort word sf rd r s =
      .next ((s.setPhys (phys rd m) r).setCpsr
        (multiplyFlags sf (negative32 r) (zero32 r) s.cpsr)) := by
  simp [finishShort, writeReg_of_some _ _ _ hm]

theorem finishLong_of_some (word : Option Word) (sf : Bool) (rdHi rdLo : RegIdx) (p : DWord)
    (hm : modeOf s.cpsr = some m) :
    finishLong word sf rdHi rdLo p s =
      .next (((s.setPhys (phys rdLo m) (lo32 p)).setPhys (phys rdHi m) (hi32 p)).setCpsr
        (multiplyFlags sf (negative64 p) (zero64 p) s.cpsr)) := by
  have hm' : modeOf (s.setPhys (phys rdLo m) (lo32 p)).cpsr = some m := by simpa using hm
  simp [finishLong, writeReg_of_some _ _ _ hm, writeReg_of_some _ _ _ hm']

theorem longProduct_of_some (word : Option Word) (widen : Word → DWord) (rm rs : RegIdx)
    (hm : modeOf s.cpsr = some m) :
    longProduct word widen rm rs s =
      .next (widen (s.getPhys (phys rm m)) * widen (s.getPhys (phys rs m))) := by
  simp [longProduct, readReg_of_some _ _ hm]

theorem longMultiply_next (word : Word) (widen : Word → DWord) (sf : Bool) {rdHi rdLo : RegIdx}
    (rs rm : RegIdx) (h : passes c s.cpsr = true) (hm : modeOf s.cpsr = some m) (hne : rdHi ≠ rdLo) :
    longMultiply word widen c sf rdHi rdLo rs rm s =
      finishLong (some word) sf rdHi rdLo
        (widen (s.getPhys (phys rm m)) * widen (s.getPhys (phys rs m))) s := by
  simp [longMultiply, whenPasses_of_true _ h, hne, longProduct_of_some _ _ _ _ hm]

theorem longMultiplyAccumulate_next (word : Word) (widen : Word → DWord) (sf : Bool)
    {rdHi rdLo : RegIdx} (rs rm : RegIdx) (h : passes c s.cpsr = true) (hm : modeOf s.cpsr = some m)
    (hne : rdHi ≠ rdLo) :
    longMultiplyAccumulate word widen c sf rdHi rdLo rs rm s =
      finishLong (some word) sf rdHi rdLo
        (widen (s.getPhys (phys rm m)) * widen (s.getPhys (phys rs m)) +
          join64 (s.getPhys (phys rdHi m)) (s.getPhys (phys rdLo m))) s := by
  simp [longMultiplyAccumulate, whenPasses_of_true _ h, hne, longProduct_of_some _ _ _ _ hm,
    readReg_of_some _ _ hm]

theorem longMultiply_sameDestination (word : Word) (widen : Word → DWord) (sf : Bool)
    (rd rs rm : RegIdx) (h : passes c s.cpsr = true) :
    longMultiply word widen c sf rd rd rs rm s = .refused .longMultiplySameDestination := by
  simp [longMultiply, whenPasses_of_true _ h]

theorem longMultiplyAccumulate_sameDestination (word : Word) (widen : Word → DWord) (sf : Bool)
    (rd rs rm : RegIdx) (h : passes c s.cpsr = true) :
    longMultiplyAccumulate word widen c sf rd rd rs rm s =
      .refused .longMultiplySameDestination := by
  simp [longMultiplyAccumulate, whenPasses_of_true _ h]

theorem execMul_next (sf : Bool) (rd : RegIdx) (unusedRn : BitVec 4) (rs rm : RegIdx)
    (h : passes c s.cpsr = true) (hm : modeOf s.cpsr = some m) :
    execMul c sf rd unusedRn rs rm s =
      finishShort (some (encode (.mul c sf rd unusedRn rs rm))) sf rd
        (s.getPhys (phys rm m) * s.getPhys (phys rs m)) s := by
  simp [execMul, whenPasses_of_true _ h, readReg_of_some _ _ hm]

theorem execMla_next (sf : Bool) (rd rn rs rm : RegIdx)
    (h : passes c s.cpsr = true) (hm : modeOf s.cpsr = some m) :
    execMla c sf rd rn rs rm s =
      finishShort (some (encode (.mla c sf rd rn rs rm))) sf rd
        (s.getPhys (phys rm m) * s.getPhys (phys rs m) + s.getPhys (phys rn m)) s := by
  simp [execMla, whenPasses_of_true _ h, readReg_of_some _ _ hm]

/-- Under an invalid mode field the first register read ends the step (R27, spec/60_exceptions.md R224). -/
theorem longProduct_of_none (word : Option Word) (widen : Word → DWord) (rm rs : RegIdx)
    (hm : modeOf s.cpsr = none) :
    longProduct word widen rm rs s = .fault (.invalidMode word (modeField s.cpsr)) := by
  simp [longProduct, readReg_of_none _ _ hm]

end Sys2Proof.Machine
end

