-- ==== Sys2Proof/Laws/Effect.lean ====
section
/-! SUPPORT. Everything an instruction can do when it answers a next state, said once
(spec/40_step_and_condition.md R134): the invariant and frame proofs cite `exec_effect` and unfold no meaning. -/

namespace Sys2Proof.Machine
variable {s t : State} {m : Mode} {c : Cond} {i : Instr}

/-- What any instruction can have done when it answers next: nothing, or, in a valid mode, writes to at most
two registers of that mode and one of three changes of the status word. -/
def Effect (s t : State) : Prop :=
  t = s ∨ ∃ (m : Mode) (a b : RegIdx) (va vb w : Word), modeOf s.cpsr = some m ∧
    t = ((s.setPhys (phys a m) va).setPhys (phys b m) vb).setCpsr w ∧
    ((∃ sf n z, w = multiplyFlags sf n z s.cpsr) ∨
      (w = setInstructionState (if vb.getLsbD 0 then .alternate else .primary) s.cpsr ∧ b = pc))

theorem setPhys_setPhys_self (s : State) (q : PhysReg) (v w : Word) :
    (s.setPhys q v).setPhys q w = s.setPhys q w := by
  cases q <;> simp [State.setPhys]

theorem setPhys_keepCpsr (s : State) (q : PhysReg) (v : Word) :
    s.setPhys q v = (s.setPhys q v).setCpsr s.cpsr := by cases q <;> rfl

theorem effect_unsupported {word : Word} {field : Option (BitVec 4)}
    (h : unsupported word field c s = .next t) : Effect s t := .inl (unsupported_eq_next.1 h).2

theorem effect_finishShort {word : Option Word} {sf : Bool} {rd : RegIdx} {r : Word}
    (h : finishShort word sf rd r s = .next t) : Effect s t := by
  simp only [finishShort, andThen_eq_next, writeReg_eq_next] at h
  obtain ⟨_, ⟨m, hm, rfl⟩, h⟩ := h
  cases h
  exact .inr ⟨m, rd, rd, r, r, _, hm, by rw [setPhys_setPhys_self], .inl ⟨sf, _, _, by rw [setPhys_cpsr]⟩⟩

theorem effect_finishLong {word : Option Word} {sf : Bool} {rdHi rdLo : RegIdx} {p : DWord}
    (h : finishLong word sf rdHi rdLo p s = .next t) : Effect s t := by
  simp only [finishLong, andThen_eq_next, writeReg_eq_next] at h
  obtain ⟨_, ⟨m, hm, rfl⟩, _, ⟨m2, hm2, rfl⟩, h⟩ := h
  cases h
  have : m2 = m := by simpa [hm, eq_comm] using hm2
  subst this
  exact .inr ⟨m2, rdLo, rdHi, _, _, _, hm, rfl, .inl ⟨sf, negative64 p, zero64 p, by simp only [setPhys_cpsr]⟩⟩

theorem effect_whenPasses {body : Result State} (h : whenPasses c s body = .next t)
    (hb : body = .next t → Effect s t) : Effect s t :=
  (whenPasses_eq_next.1 h).elim (fun h => .inl h.2) (fun h => hb h.2)

theorem effect_longMultiply {word : Word} {widen : Word → DWord} {sf : Bool} {rdHi rdLo rs rm : RegIdx}
    (h : longMultiply word widen c sf rdHi rdLo rs rm s = .next t) : Effect s t := by
  refine effect_whenPasses h fun h => ?_
  split at h
  · cases h
  · obtain ⟨_, -, h⟩ := andThen_eq_next.1 h
    exact effect_finishLong h

theorem effect_longMultiplyAccumulate {word : Word} {widen : Word → DWord} {sf : Bool}
    {rdHi rdLo rs rm : RegIdx} (h : longMultiplyAccumulate word widen c sf rdHi rdLo rs rm s = .next t) :
    Effect s t := by
  refine effect_whenPasses h fun h => ?_
  split at h
  · cases h
  · simp only [andThen_eq_next] at h
    obtain ⟨_, -, _, -, _, -, h⟩ := h
    exact effect_finishLong h

/-- The effect of every instruction that answers next. -/
theorem exec_effect (h : exec i s = .next t) : Effect s t := by
  cases i
  case b c off =>
    refine effect_whenPasses h fun h => ?_
    simp only [andThen_eq_next, readReg_eq_next, writeReg_eq_next] at h
    obtain ⟨v, -, m, hm, rfl⟩ := h
    exact .inr ⟨m, pc, pc, 0, v + branchOffset off, s.cpsr, hm, by
      rw [setPhys_setPhys_self, ← setPhys_keepCpsr], .inl ⟨false, false, false, rfl⟩⟩
  case bl c off =>
    refine effect_whenPasses h fun h => ?_
    simp only [andThen_eq_next, readReg_eq_next, writeReg_eq_next] at h
    obtain ⟨v, -, _, ⟨m, hm, rfl⟩, m2, hm2, rfl⟩ := h
    have : m2 = m := by simpa [hm, eq_comm] using hm2
    subst this
    exact .inr ⟨m2, lr, pc, v + 4, v + branchOffset off, s.cpsr, hm, by
      conv_lhs => rw [setPhys_keepCpsr, setPhys_cpsr], .inl ⟨false, false, false, rfl⟩⟩
  case bx c rm =>
    refine effect_whenPasses h fun h => ?_
    simp only [andThen_eq_next, readReg_eq_next, writeReg_eq_next] at h
    obtain ⟨v, -, m, hm, rfl⟩ := h
    refine .inr ⟨m, pc, pc, v, v, _, by simpa using hm, ?_, .inr ⟨rfl, rfl⟩⟩
    rw [setPhys_setCpsr, setPhys_setPhys_self]
  case mul c sf rd n rs rm =>
    refine effect_whenPasses h fun h => ?_
    simp only [andThen_eq_next] at h
    obtain ⟨_, -, _, -, h⟩ := h
    exact effect_finishShort h
  case mla c sf rd n rs rm =>
    refine effect_whenPasses h fun h => ?_
    simp only [andThen_eq_next] at h
    obtain ⟨_, -, _, -, _, -, h⟩ := h
    exact effect_finishShort h
  case umull | smull => exact effect_longMultiply h
  case umlal | smlal => exact effect_longMultiplyAccumulate h
  all_goals exact effect_unsupported h
end Sys2Proof.Machine
end

