-- ==== Sys2Proof/Laws/Memory.lean ====
section
/-! SUPPORT. The instruction memory: reading after writing, and the canonical form, which every memory
operation keeps (spec/20_memory.md R63, R66). -/

namespace Sys2Proof.Machine

/-- Reading the byte just written gives it back. -/
@[simp] theorem readByte_writeByte_self (m : Memory) (a : Nat) (b : Byte) :
    Memory.readByte (Memory.writeByte m a b) a = some b := by
  induction m with
  | nil => simp [Memory.writeByte, Memory.readByte]
  | cons c rest ih =>
    obtain ⟨k, v⟩ := c
    unfold Memory.writeByte
    split
    · simp [Memory.readByte]
    · split
      · simp [Memory.readByte]
      · rename_i h1 h2
        have : ¬ k = a := fun h => h2 h.symm
        simp [Memory.readByte, this, ih]

/-- Writing a byte leaves every other address alone. -/
theorem readByte_writeByte_of_ne (m : Memory) {a x : Nat} (b : Byte) (h : x ≠ a) :
    Memory.readByte (Memory.writeByte m a b) x = Memory.readByte m x := by
  induction m with
  | nil => simp [Memory.writeByte, Memory.readByte, Ne.symm h]
  | cons c rest ih =>
    obtain ⟨k, v⟩ := c
    unfold Memory.writeByte
    split
    · simp [Memory.readByte, Ne.symm h]
    · split
      · rename_i h1 h2
        subst h2
        simp [Memory.readByte, Ne.symm h]
      · simp [Memory.readByte, ih]

/-- What stands in a memory after a write: the new byte, or something that stood there. -/
theorem mem_writeByte {m : Memory} {a : Nat} {b : Byte} {c : Host.Cell}
    (h : c ∈ Memory.writeByte m a b) : c = (a, b) ∨ c ∈ m := by
  induction m with
  | nil => simpa [Memory.writeByte] using h
  | cons d rest ih =>
    obtain ⟨k, v⟩ := d
    unfold Memory.writeByte at h
    split at h
    · simpa using h
    · split at h
      · simp only [List.mem_cons] at h ⊢; tauto
      · simp only [List.mem_cons] at h ⊢
        rcases h with h | h
        · tauto
        · rcases ih h with h | h <;> tauto

/-- A byte write keeps the canonical form. -/
theorem writeByte_wf {m : Memory} {a : Nat} (b : Byte) (ha : a < 2 ^ 32) (h : Memory.wf m) :
    Memory.wf (Memory.writeByte m a b) := by
  obtain ⟨hp, hb⟩ := h
  refine ⟨?_, fun c hc => ?_⟩
  · induction m with
    | nil => simp [Memory.writeByte]
    | cons d rest ih =>
      obtain ⟨k, v⟩ := d
      rw [List.pairwise_cons] at hp
      have hrest := ih hp.2 (fun c hc => hb c (List.mem_cons_of_mem _ hc))
      unfold Memory.writeByte
      split
      · rename_i h1
        refine List.pairwise_cons.2 ⟨fun c hc => ?_, List.pairwise_cons.2 hp⟩
        rcases List.mem_cons.1 hc with rfl | hc
        · exact h1
        · exact lt_trans h1 (hp.1 c hc)
      · split
        · rename_i h1 h2
          subst h2
          exact List.pairwise_cons.2 ⟨hp.1, hp.2⟩
        · rename_i h1 h2
          refine List.pairwise_cons.2 ⟨fun c hc => ?_, hrest⟩
          rcases mem_writeByte hc with rfl | hc
          · show k < a
            omega
          · exact hp.1 c hc
  · rcases mem_writeByte hc with rfl | hc
    · exact ha
    · exact hb c hc

/-- A word write keeps the canonical form. -/
theorem writeWord_wf {m : Memory} (a w : Word) (h : Memory.wf m) : Memory.wf (Memory.writeWord m a w) := by
  unfold Memory.writeWord
  exact writeByte_wf _ (a + 3).isLt (writeByte_wf _ (a + 2).isLt
    (writeByte_wf _ (a + 1).isLt (writeByte_wf _ a.isLt h)))

/-- A word is its four bytes (R63). -/
theorem wordOfBytes_byteOfWord (w : Word) :
    wordOfBytes (byteOfWord w 0) (byteOfWord w 1) (byteOfWord w 2) (byteOfWord w 3) = w := by
  unfold wordOfBytes byteOfWord place
  ext i hi
  interval_cases i <;> simp

/-- Reading the word just written gives it back. -/
theorem readWord_writeWord_self (m : Memory) (a w : Word) :
    Memory.readWord (Memory.writeWord m a w) a = some w := by
  have e : ∀ j k : Word, j ≠ k → (a + j).toNat ≠ (a + k).toNat := fun j k h h2 =>
    h (by simpa using BitVec.eq_of_toNat_eq h2)
  have e0 : ∀ k : Word, 0 ≠ k → a.toNat ≠ (a + k).toNat := fun k h => by simpa using e 0 k h
  unfold Memory.readWord Memory.writeWord
  rw [readByte_writeByte_of_ne _ _ (e0 3 (by decide)), readByte_writeByte_of_ne _ _ (e0 2 (by decide)),
    readByte_writeByte_of_ne _ _ (e0 1 (by decide)), readByte_writeByte_self,
    readByte_writeByte_of_ne _ _ (e 1 3 (by decide)), readByte_writeByte_of_ne _ _ (e 1 2 (by decide)),
    readByte_writeByte_self, readByte_writeByte_of_ne _ _ (e 2 3 (by decide)), readByte_writeByte_self,
    readByte_writeByte_self]
  simp [wordOfBytes_byteOfWord]

/-- Loading the next instruction keeps the memory's canonical form. -/
theorem loadNext_wf {s : State} (w : Word) (h : Memory.wf s.imem) : Memory.wf (s.loadNext w).imem :=
  writeWord_wf _ _ h

/-- Reset memory is in canonical form. -/
theorem reset_imem_wf : Memory.wf State.reset.imem := by decide

end Sys2Proof.Machine
end

