-- ==== Sys2Proof/Laws/PerInstr.lean ====
section
/-! SUPPORT. Statements about every instruction as syntax, one lemma per constructor. `CondField`: every
encoding carries its condition in bits 31 to 28 (spec/30_encoding.md R81). `Classified`: the decoder puts the
encoding of a well-formed instruction in the category the opcode table gives it (R82 to R99, R113). -/

namespace Sys2Proof

/-- One pattern of the decoder's search: it takes the word, or the rest of the list decides (R82). -/
theorem classify_step (p : Pattern) (ps : List Pattern) (w : Word) :
    ((p :: ps).find? (·.matches w)).map (·.category) =
      if w &&& p.mask = p.value then some p.category else (ps.find? (·.matches w)).map (·.category) := by
  by_cases h : w &&& p.mask = p.value
  · have hm : p.matches w = true := by simp [Pattern.matches, h]
    rw [List.find?_cons_of_pos (p := fun q : Pattern => q.matches w) hm, if_pos h]; rfl
  · have hm : ¬ p.matches w = true := by simp [Pattern.matches, h]
    rw [List.find?_cons_of_neg (p := fun q : Pattern => q.matches w) hm, if_neg h]

/-- A test of a field, as a test of its bits. -/
theorem beq_extract {n : Nat} (w : BitVec n) (lo len : Nat) (v : BitVec len) :
    (w.extractLsb' lo len == v) = decide (∀ i, i < len → w.getLsbD (lo + i) = v.getLsbD i) := by
  rw [beq_eq_decide]; simp only [extract_eq_iff]

theorem beq_ones4 (u : BitVec 4) : (u == 0b1111) = (u[0] && u[1] && u[2] && u[3]) := by
  revert u; decide

theorem beq_zero4 (u : BitVec 4) : (u == 0) = (!u[0] && !u[1] && !u[2] && !u[3]) := by
  revert u; decide

theorem beq_zero1 (u : BitVec 1) : (u == 0) = !u[0] := by
  revert u; decide

/-- The condition field of any word of the multiply format (R81, R105). -/
theorem encodeMultiply_cond (c : Cond) (sub : BitVec 4) (sf : Bool) (d n rs rm : BitVec 4) :
    (encodeMultiply c sub sf d n rs rm).extractLsb' 28 4 = c.bits := by
  simp only [extract_eq_iff, Nat.forall_lt_succ_right, Nat.not_lt_zero, false_imp_iff, implies_true,
    true_and]
  simp [encodeMultiply, getElem_place]

/-- A word of the multiply format is a MultiplyFamily word unless MSR or SWP takes it (R98). -/
theorem classify_encodeMultiply (c : Cond) (sub : BitVec 4) (sf : Bool) (d n rs rm : BitVec 4)
    (hm : (sub[3] && !sub[2] && sub[0] && multiplyIsMsr sf n) = false)
    (hs : (sub[3] && !sub[2] && !sub[0] && multiplyIsSwp sf rs) = false) :
    classify (encodeMultiply c sub sf d n rs rm) = some .multiplyFamily := by
  simp only [multiplyIsMsr, multiplyIsSwp, beq_ones4, beq_zero4] at hm hs
  simp only [classify, patterns, classify_step, and_mask_eq_iff, Nat.forall_lt_succ_right,
    Nat.not_lt_zero, false_imp_iff, implies_true, true_and]
  simp [encodeMultiply, getElem_place]
  grind

end Sys2Proof

namespace Sys2Proof.Laws.CondField

/-- Every encoding carries the instruction's condition in `w[31:28]` (R81, R123). -/
def Statement (i : Instr) : Prop := (encode i).extractLsb' 28 4 = i.cond.bits

theorem swi (c : Cond) (k : BitVec 24) : Statement (.swi c k) := by
  unfold Statement
  simp only [extract_eq_iff, Nat.forall_lt_succ_right, Nat.not_lt_zero, false_imp_iff, implies_true,
    true_and]
  simp [encode, Instr.cond, getElem_place]

theorem bl (c : Cond) (off : BitVec 24) : Statement (.bl c off) := by
  unfold Statement
  simp only [extract_eq_iff, Nat.forall_lt_succ_right, Nat.not_lt_zero, false_imp_iff, implies_true,
    true_and]
  simp [encode, Instr.cond, getElem_place]

theorem b (c : Cond) (off : BitVec 24) : Statement (.b c off) := by
  unfold Statement
  simp only [extract_eq_iff, Nat.forall_lt_succ_right, Nat.not_lt_zero, false_imp_iff, implies_true,
    true_and]
  simp [encode, Instr.cond, getElem_place]

theorem bx (c : Cond) (rm : RegIdx) : Statement (.bx c rm) := by
  unfold Statement
  simp only [extract_eq_iff, Nat.forall_lt_succ_right, Nat.not_lt_zero, false_imp_iff, implies_true,
    true_and]
  simp [encode, Instr.cond, getElem_place]

theorem ldm (c : Cond) (u : BitVec 4) (l : BitVec 20) : Statement (.ldm c u l) := by
  unfold Statement
  simp only [extract_eq_iff, Nat.forall_lt_succ_right, Nat.not_lt_zero, false_imp_iff, implies_true,
    true_and]
  simp [encode, Instr.cond, getElem_place]

theorem stm (c : Cond) (u : BitVec 4) (l : BitVec 20) : Statement (.stm c u l) := by
  unfold Statement
  simp only [extract_eq_iff, Nat.forall_lt_succ_right, Nat.not_lt_zero, false_imp_iff, implies_true,
    true_and]
  simp [encode, Instr.cond, getElem_place]

theorem ldr (c : Cond) (u : BitVec 5) (l : BitVec 20) : Statement (.ldr c u l) := by
  unfold Statement
  simp only [extract_eq_iff, Nat.forall_lt_succ_right, Nat.not_lt_zero, false_imp_iff, implies_true,
    true_and]
  simp [encode, Instr.cond, getElem_place]

theorem str (c : Cond) (u : BitVec 5) (l : BitVec 20) : Statement (.str c u l) := by
  unfold Statement
  simp only [extract_eq_iff, Nat.forall_lt_succ_right, Nat.not_lt_zero, false_imp_iff, implies_true,
    true_and]
  simp [encode, Instr.cond, getElem_place]

theorem ldrh (c : Cond) (u : BitVec 4) (m : BitVec 12) (l : BitVec 4) : Statement (.ldrh c u m l) := by
  unfold Statement
  simp only [extract_eq_iff, Nat.forall_lt_succ_right, Nat.not_lt_zero, false_imp_iff, implies_true,
    true_and]
  simp [encode, Instr.cond, getElem_place]

theorem ldrsb (c : Cond) (u : BitVec 4) (m : BitVec 12) (l : BitVec 4) : Statement (.ldrsb c u m l) := by
  unfold Statement
  simp only [extract_eq_iff, Nat.forall_lt_succ_right, Nat.not_lt_zero, false_imp_iff, implies_true,
    true_and]
  simp [encode, Instr.cond, getElem_place]

theorem ldrsh (c : Cond) (u : BitVec 4) (m : BitVec 12) (l : BitVec 4) : Statement (.ldrsh c u m l) := by
  unfold Statement
  simp only [extract_eq_iff, Nat.forall_lt_succ_right, Nat.not_lt_zero, false_imp_iff, implies_true,
    true_and]
  simp [encode, Instr.cond, getElem_place]

theorem strh (c : Cond) (u : BitVec 4) (m : BitVec 12) (l : BitVec 4) : Statement (.strh c u m l) := by
  unfold Statement
  simp only [extract_eq_iff, Nat.forall_lt_succ_right, Nat.not_lt_zero, false_imp_iff, implies_true,
    true_and]
  simp [encode, Instr.cond, getElem_place]

theorem mrs (c : Cond) (u : BitVec 1) (l : BitVec 4) : Statement (.mrs c u l) := by
  unfold Statement
  simp only [extract_eq_iff, Nat.forall_lt_succ_right, Nat.not_lt_zero, false_imp_iff, implies_true,
    true_and]
  simp [encode, Instr.cond, getElem_place]

theorem msr (c : Cond) (u v : BitVec 1) (m : BitVec 4) (l : BitVec 12) : Statement (.msr c u v m l) := by
  unfold Statement
  simp only [extract_eq_iff, Nat.forall_lt_succ_right, Nat.not_lt_zero, false_imp_iff, implies_true,
    true_and]
  simp [encode, Instr.cond, getElem_place]

theorem swp (c : Cond) (u : BitVec 1) (m : BitVec 8) (l : BitVec 4) : Statement (.swp c u m l) := by
  unfold Statement
  simp only [extract_eq_iff, Nat.forall_lt_succ_right, Nat.not_lt_zero, false_imp_iff, implies_true,
    true_and]
  simp [encode, Instr.cond, getElem_place]

theorem mul (c : Cond) (sf : Bool) (d n rs rm : BitVec 4) : Statement (.mul c sf d n rs rm) :=
  encodeMultiply_cond c _ sf d n rs rm

theorem mla (c : Cond) (sf : Bool) (d n rs rm : BitVec 4) : Statement (.mla c sf d n rs rm) :=
  encodeMultiply_cond c _ sf d n rs rm

theorem umaal (c : Cond) (sf : Bool) (d n rs rm : BitVec 4) : Statement (.umaal c sf d n rs rm) :=
  encodeMultiply_cond c _ sf d n rs rm

theorem mulSub0011 (c : Cond) (sf : Bool) (d n rs rm : BitVec 4) : Statement (.mulSub0011 c sf d n rs rm) :=
  encodeMultiply_cond c _ sf d n rs rm

theorem umull (c : Cond) (sf : Bool) (d n rs rm : BitVec 4) : Statement (.umull c sf d n rs rm) :=
  encodeMultiply_cond c _ sf d n rs rm

theorem umlal (c : Cond) (sf : Bool) (d n rs rm : BitVec 4) : Statement (.umlal c sf d n rs rm) :=
  encodeMultiply_cond c _ sf d n rs rm

theorem smull (c : Cond) (sf : Bool) (d n rs rm : BitVec 4) : Statement (.smull c sf d n rs rm) :=
  encodeMultiply_cond c _ sf d n rs rm

theorem smlal (c : Cond) (sf : Bool) (d n rs rm : BitVec 4) : Statement (.smlal c sf d n rs rm) :=
  encodeMultiply_cond c _ sf d n rs rm

theorem mulSub1000 (c : Cond) (sf : Bool) (d n rs rm : BitVec 4) : Statement (.mulSub1000 c sf d n rs rm) :=
  encodeMultiply_cond c _ sf d n rs rm

theorem mulSub1001 (c : Cond) (sf : Bool) (d n rs rm : BitVec 4) : Statement (.mulSub1001 c sf d n rs rm) :=
  encodeMultiply_cond c _ sf d n rs rm

theorem mulSub1010 (c : Cond) (sf : Bool) (d n rs rm : BitVec 4) : Statement (.mulSub1010 c sf d n rs rm) :=
  encodeMultiply_cond c _ sf d n rs rm

theorem mulSub1011 (c : Cond) (sf : Bool) (d n rs rm : BitVec 4) : Statement (.mulSub1011 c sf d n rs rm) :=
  encodeMultiply_cond c _ sf d n rs rm

theorem mulSub1100 (c : Cond) (sf : Bool) (d n rs rm : BitVec 4) : Statement (.mulSub1100 c sf d n rs rm) :=
  encodeMultiply_cond c _ sf d n rs rm

theorem mulSub1101 (c : Cond) (sf : Bool) (d n rs rm : BitVec 4) : Statement (.mulSub1101 c sf d n rs rm) :=
  encodeMultiply_cond c _ sf d n rs rm

theorem mulSub1110 (c : Cond) (sf : Bool) (d n rs rm : BitVec 4) : Statement (.mulSub1110 c sf d n rs rm) :=
  encodeMultiply_cond c _ sf d n rs rm

theorem mulSub1111 (c : Cond) (sf : Bool) (d n rs rm : BitVec 4) : Statement (.mulSub1111 c sf d n rs rm) :=
  encodeMultiply_cond c _ sf d n rs rm

theorem dp (c : Cond) (u : BitVec 26) : Statement (.dp c u) := by
  unfold Statement
  simp only [extract_eq_iff, Nat.forall_lt_succ_right, Nat.not_lt_zero, false_imp_iff, implies_true,
    true_and]
  simp [encode, Instr.cond, getElem_place]

end Sys2Proof.Laws.CondField

namespace Sys2Proof.Laws.Classified

/-- The decoder puts the encoding of a well-formed instruction in its own category (R82, R113). -/
def Statement (i : Instr) : Prop := i.wf = true → classify (encode i) = some i.category

theorem swi (c : Cond) (k : BitVec 24) : Statement (.swi c k) := by
  intro _
  simp only [Instr.category, classify, patterns, classify_step, and_mask_eq_iff,
    Nat.forall_lt_succ_right, Nat.not_lt_zero, false_imp_iff, implies_true, true_and]
  simp [encode, getElem_place]

theorem bl (c : Cond) (off : BitVec 24) : Statement (.bl c off) := by
  intro _
  simp only [Instr.category, classify, patterns, classify_step, and_mask_eq_iff,
    Nat.forall_lt_succ_right, Nat.not_lt_zero, false_imp_iff, implies_true, true_and]
  simp [encode, getElem_place]

theorem b (c : Cond) (off : BitVec 24) : Statement (.b c off) := by
  intro _
  simp only [Instr.category, classify, patterns, classify_step, and_mask_eq_iff,
    Nat.forall_lt_succ_right, Nat.not_lt_zero, false_imp_iff, implies_true, true_and]
  simp [encode, getElem_place]

theorem bx (c : Cond) (rm : RegIdx) : Statement (.bx c rm) := by
  intro _
  simp only [Instr.category, classify, patterns, classify_step, and_mask_eq_iff,
    Nat.forall_lt_succ_right, Nat.not_lt_zero, false_imp_iff, implies_true, true_and]
  simp [encode, getElem_place]

theorem ldm (c : Cond) (u : BitVec 4) (l : BitVec 20) : Statement (.ldm c u l) := by
  intro _
  simp only [Instr.category, classify, patterns, classify_step, and_mask_eq_iff,
    Nat.forall_lt_succ_right, Nat.not_lt_zero, false_imp_iff, implies_true, true_and]
  simp [encode, getElem_place]

theorem stm (c : Cond) (u : BitVec 4) (l : BitVec 20) : Statement (.stm c u l) := by
  intro _
  simp only [Instr.category, classify, patterns, classify_step, and_mask_eq_iff,
    Nat.forall_lt_succ_right, Nat.not_lt_zero, false_imp_iff, implies_true, true_and]
  simp [encode, getElem_place]

theorem ldr (c : Cond) (u : BitVec 5) (l : BitVec 20) : Statement (.ldr c u l) := by
  intro _
  simp only [Instr.category, classify, patterns, classify_step, and_mask_eq_iff,
    Nat.forall_lt_succ_right, Nat.not_lt_zero, false_imp_iff, implies_true, true_and]
  simp [encode, getElem_place]

theorem str (c : Cond) (u : BitVec 5) (l : BitVec 20) : Statement (.str c u l) := by
  intro _
  simp only [Instr.category, classify, patterns, classify_step, and_mask_eq_iff,
    Nat.forall_lt_succ_right, Nat.not_lt_zero, false_imp_iff, implies_true, true_and]
  simp [encode, getElem_place]

theorem ldrh (c : Cond) (u : BitVec 4) (m : BitVec 12) (l : BitVec 4) : Statement (.ldrh c u m l) := by
  intro _
  simp only [Instr.category, classify, patterns, classify_step, and_mask_eq_iff,
    Nat.forall_lt_succ_right, Nat.not_lt_zero, false_imp_iff, implies_true, true_and]
  simp [encode, getElem_place]

theorem ldrsb (c : Cond) (u : BitVec 4) (m : BitVec 12) (l : BitVec 4) : Statement (.ldrsb c u m l) := by
  intro _
  simp only [Instr.category, classify, patterns, classify_step, and_mask_eq_iff,
    Nat.forall_lt_succ_right, Nat.not_lt_zero, false_imp_iff, implies_true, true_and]
  simp [encode, getElem_place]

theorem ldrsh (c : Cond) (u : BitVec 4) (m : BitVec 12) (l : BitVec 4) : Statement (.ldrsh c u m l) := by
  intro _
  simp only [Instr.category, classify, patterns, classify_step, and_mask_eq_iff,
    Nat.forall_lt_succ_right, Nat.not_lt_zero, false_imp_iff, implies_true, true_and]
  simp [encode, getElem_place]

theorem strh (c : Cond) (u : BitVec 4) (m : BitVec 12) (l : BitVec 4) : Statement (.strh c u m l) := by
  intro _
  simp only [Instr.category, classify, patterns, classify_step, and_mask_eq_iff,
    Nat.forall_lt_succ_right, Nat.not_lt_zero, false_imp_iff, implies_true, true_and]
  simp [encode, getElem_place]

theorem mrs (c : Cond) (u : BitVec 1) (l : BitVec 4) : Statement (.mrs c u l) := by
  intro _
  simp only [Instr.category, classify, patterns, classify_step, and_mask_eq_iff,
    Nat.forall_lt_succ_right, Nat.not_lt_zero, false_imp_iff, implies_true, true_and]
  simp [encode, getElem_place]

theorem msr (c : Cond) (u v : BitVec 1) (m : BitVec 4) (l : BitVec 12) : Statement (.msr c u v m l) := by
  intro h
  simp only [Instr.wf, msrIsBx, msrIsStrh, beq_extract, beq_zero1, beq_ones4, Nat.forall_lt_succ_right,
    Nat.not_lt_zero, false_imp_iff, implies_true, true_and] at h
  simp [-Bool.decide_and] at h
  simp only [Instr.category, classify, patterns, classify_step, and_mask_eq_iff,
    Nat.forall_lt_succ_right, Nat.not_lt_zero, false_imp_iff, implies_true, true_and]
  simp [encode, getElem_place]
  grind

theorem swp (c : Cond) (u : BitVec 1) (m : BitVec 8) (l : BitVec 4) : Statement (.swp c u m l) := by
  intro _
  simp only [Instr.category, classify, patterns, classify_step, and_mask_eq_iff,
    Nat.forall_lt_succ_right, Nat.not_lt_zero, false_imp_iff, implies_true, true_and]
  simp [encode, getElem_place]

theorem mul (c : Cond) (sf : Bool) (d n rs rm : BitVec 4) : Statement (.mul c sf d n rs rm) :=
  fun _ => classify_encodeMultiply c _ sf d n rs rm (by simp) (by simp)

theorem mla (c : Cond) (sf : Bool) (d n rs rm : BitVec 4) : Statement (.mla c sf d n rs rm) :=
  fun _ => classify_encodeMultiply c _ sf d n rs rm (by simp) (by simp)

theorem umaal (c : Cond) (sf : Bool) (d n rs rm : BitVec 4) : Statement (.umaal c sf d n rs rm) :=
  fun _ => classify_encodeMultiply c _ sf d n rs rm (by simp) (by simp)

theorem mulSub0011 (c : Cond) (sf : Bool) (d n rs rm : BitVec 4) : Statement (.mulSub0011 c sf d n rs rm) :=
  fun _ => classify_encodeMultiply c _ sf d n rs rm (by simp) (by simp)

theorem umull (c : Cond) (sf : Bool) (d n rs rm : BitVec 4) : Statement (.umull c sf d n rs rm) :=
  fun _ => classify_encodeMultiply c _ sf d n rs rm (by simp) (by simp)

theorem umlal (c : Cond) (sf : Bool) (d n rs rm : BitVec 4) : Statement (.umlal c sf d n rs rm) :=
  fun _ => classify_encodeMultiply c _ sf d n rs rm (by simp) (by simp)

theorem smull (c : Cond) (sf : Bool) (d n rs rm : BitVec 4) : Statement (.smull c sf d n rs rm) :=
  fun _ => classify_encodeMultiply c _ sf d n rs rm (by simp) (by simp)

theorem smlal (c : Cond) (sf : Bool) (d n rs rm : BitVec 4) : Statement (.smlal c sf d n rs rm) :=
  fun _ => classify_encodeMultiply c _ sf d n rs rm (by simp) (by simp)

theorem mulSub1000 (c : Cond) (sf : Bool) (d n rs rm : BitVec 4) : Statement (.mulSub1000 c sf d n rs rm) := by
  intro h
  exact classify_encodeMultiply c _ sf d n rs rm (by simp) (by simpa [Instr.wf] using h)

theorem mulSub1001 (c : Cond) (sf : Bool) (d n rs rm : BitVec 4) : Statement (.mulSub1001 c sf d n rs rm) := by
  intro h
  exact classify_encodeMultiply c _ sf d n rs rm (by simpa [Instr.wf] using h) (by simp)

theorem mulSub1010 (c : Cond) (sf : Bool) (d n rs rm : BitVec 4) : Statement (.mulSub1010 c sf d n rs rm) := by
  intro h
  exact classify_encodeMultiply c _ sf d n rs rm (by simp) (by simpa [Instr.wf] using h)

theorem mulSub1011 (c : Cond) (sf : Bool) (d n rs rm : BitVec 4) : Statement (.mulSub1011 c sf d n rs rm) := by
  intro h
  exact classify_encodeMultiply c _ sf d n rs rm (by simpa [Instr.wf] using h) (by simp)

theorem mulSub1100 (c : Cond) (sf : Bool) (d n rs rm : BitVec 4) : Statement (.mulSub1100 c sf d n rs rm) :=
  fun _ => classify_encodeMultiply c _ sf d n rs rm (by simp) (by simp)

theorem mulSub1101 (c : Cond) (sf : Bool) (d n rs rm : BitVec 4) : Statement (.mulSub1101 c sf d n rs rm) :=
  fun _ => classify_encodeMultiply c _ sf d n rs rm (by simp) (by simp)

theorem mulSub1110 (c : Cond) (sf : Bool) (d n rs rm : BitVec 4) : Statement (.mulSub1110 c sf d n rs rm) :=
  fun _ => classify_encodeMultiply c _ sf d n rs rm (by simp) (by simp)

theorem mulSub1111 (c : Cond) (sf : Bool) (d n rs rm : BitVec 4) : Statement (.mulSub1111 c sf d n rs rm) :=
  fun _ => classify_encodeMultiply c _ sf d n rs rm (by simp) (by simp)

theorem dp (c : Cond) (u : BitVec 26) : Statement (.dp c u) := by
  intro h
  simp only [Instr.wf, dpIsBx, dpIsHalfword, dpIsMrs, dpIsMsr, dpIsMultiply, beq_extract,
    Nat.forall_lt_succ_right, Nat.not_lt_zero, false_imp_iff, implies_true, true_and] at h
  simp [-Bool.decide_and] at h
  simp only [Instr.category, classify, patterns, classify_step, and_mask_eq_iff,
    Nat.forall_lt_succ_right, Nat.not_lt_zero, false_imp_iff, implies_true, true_and]
  simp [encode, getElem_place]
  grind

end Sys2Proof.Laws.Classified
end

