-- ==== Sys2Proof/Tests/Slice0.lean ====
section
/-! SUPPORT. Tests of the model, each one step or less, with expected results taken from the worked examples
and vectors of spec/95_test_vectors.md (its section numbers stand at each group), and for every statement of
Obligations.lean with hypotheses a witness: a concrete state and operands that meet them together. -/

namespace Sys2Proof.Tests

open Sys2Proof.Machine

/-! ### Helpers -/

/-- A small state: r0 to r3, r15 and the status word given, all else zero. -/
def st (r0 r1 r2 r3 r15 cpsr : Word) : State :=
  { State.reset with pLo := #v[r0, r1, r2, r3, 0, 0, 0, 0], pPc := r15, cpsr := cpsr }

/-- A state with r15 and the status word given, all else zero. -/
def at_ (r15 cpsr : Word) : State := st 0 0 0 0 r15 cpsr

/-- What a next state shows through `f`. -/
def see {α : Type} (o : Host.Outcome State Fault Refusal) (f : State → α) : Option α :=
  match o with
  | .next t => some (f t)
  | .fault _ => none
  | .refused _ => none

/-- The fault a step ends in, if it does. -/
def faultOf {α : Type} (o : Host.Outcome α Fault Refusal) : Option Fault :=
  match o with
  | .next _ => none
  | .fault f => some f
  | .refused _ => none

/-- The refusal a step ends in, if it does. -/
def refusalOf {α : Type} (o : Host.Outcome α Fault Refusal) : Option Refusal :=
  match o with
  | .next _ => none
  | .fault _ => none
  | .refused r => some r

/-- r1:r0 and the status word, what the long multiplies of section 2.5 change. -/
def long (t : State) : Word × Word × Word := (t.getPhys (.lo 1), t.getPhys (.lo 0), t.cpsr)

/-- r1 and the status word. -/
def short (t : State) : Word × Word := (t.getPhys (.lo 1), t.cpsr)

/-- A state about to fetch `w` at 0x1000, in Supervisor mode. -/
def fetching (w : Word) : State := (at_ 0x1000 0x13).loadNext w

/-! ### Decoding: words of sections 2.1 and 2.5, bit by bit from the encodings of spec/30_encoding.md -/

/-- cond 1110, 1111, comment field 0. -/
theorem test_decode_swi : decode 0b1110_1111_000000000000000000000000 = .ok (.swi .al 0) := by decide
/-- cond 1110, 1011, offset field -4 (0xFFFFFC). -/
theorem test_decode_bl : decode 0b1110_1011_111111111111111111111100 = .ok (.bl .al 0xFFFFFC) := by decide
/-- cond 0000, 1010, offset field 16. -/
theorem test_decode_b : decode 0b0000_1010_000000000000000000010000 = .ok (.b .eq 16) := by decide
/-- cond 1110, 0001 0010 1111 1111 1111 0001, Rm = 14. -/
theorem test_decode_bx : decode 0b1110_0001_0010_1111_1111_1111_0001_1110 = .ok (.bx .al 14) := by decide
/-- E8900003: cond, 100, w[24:21] = 0100, 1, w[19:0]. -/
theorem test_decode_ldm : decode 0b1110_100_0100_1_00000000000000000011 = .ok (.ldm .al 0b0100 3) := by
  decide
/-- E8800003: the same with bit 20 clear. -/
theorem test_decode_stm : decode 0b1110_100_0100_0_00000000000000000011 = .ok (.stm .al 0b0100 3) := by
  decide
/-- E5910000: cond, 01, w[25:21] = 01100, 1, w[19:0] = 0x10000. -/
theorem test_decode_ldr : decode 0b1110_01_01100_1_00010000000000000000 = .ok (.ldr .al 0b01100 0x10000) := by
  decide
/-- E5810000: the same with bit 20 clear. -/
theorem test_decode_str : decode 0b1110_01_01100_0_00010000000000000000 = .ok (.str .al 0b01100 0x10000) := by
  decide
/-- E1D100B0: cond, 000, w[24:21] = 1110, 1, w[19:8] = 0x100, 1011, w[3:0]. -/
theorem test_decode_ldrh :
    decode 0b1110_000_1110_1_000100000000_1011_0000 = .ok (.ldrh .al 0b1110 0x100 0) := by decide
/-- E1D100D0: w[7:4] = 1101. -/
theorem test_decode_ldrsb :
    decode 0b1110_000_1110_1_000100000000_1101_0000 = .ok (.ldrsb .al 0b1110 0x100 0) := by decide
/-- E1D100F0: w[7:4] = 1111. -/
theorem test_decode_ldrsh :
    decode 0b1110_000_1110_1_000100000000_1111_0000 = .ok (.ldrsh .al 0b1110 0x100 0) := by decide
/-- E1C100B0: bit 20 clear, w[7:4] = 1011. -/
theorem test_decode_strh :
    decode 0b1110_000_1110_0_000100000000_1011_0000 = .ok (.strh .al 0b1110 0x100 0) := by decide
/-- E14F0000: bit 22 set. -/
theorem test_decode_mrs : decode 0b1110_00010_1_00_1111_0000_000000000000 = .ok (.mrs .al 1 0) := by decide
/-- E328F001: bit 25 set, w[19:16] = 1000, w[11:0] = 1. -/
theorem test_decode_msr :
    decode 0b1110_00_1_10_0_10_1000_1111_000000000001 = .ok (.msr .al 1 0 0b1000 1) := by decide
/-- E1020091: w[19:12] = 0x20, w[3:0] = 1. -/
theorem test_decode_swp : decode 0b1110_00010_0_00_00100000_00001001_0001 = .ok (.swp .al 0 0x20 1) := by
  decide
/-- The multiply format: cond, 000, sub, S, D = 1, N = 0, S = 3, 1001, M = 2. -/
theorem test_decode_mul :
    decode 0b1110_000_0000_0_0001_0000_0011_1001_0010 = .ok (.mul .al false 1 0 3 2) := by decide
theorem test_decode_mla :
    decode 0b1110_000_0001_1_0001_0000_0011_1001_0010 = .ok (.mla .al true 1 0 3 2) := by decide
theorem test_decode_umaal :
    decode 0b1110_000_0010_0_0001_0000_0011_1001_0010 = .ok (.umaal .al false 1 0 3 2) := by decide
theorem test_decode_mulSub0011 :
    decode 0b1110_000_0011_0_0001_0000_0011_1001_0010 = .ok (.mulSub0011 .al false 1 0 3 2) := by decide
theorem test_decode_umull :
    decode 0b1110_000_0100_0_0001_0000_0011_1001_0010 = .ok (.umull .al false 1 0 3 2) := by decide
theorem test_decode_umlal :
    decode 0b1110_000_0101_0_0001_0000_0011_1001_0010 = .ok (.umlal .al false 1 0 3 2) := by decide
theorem test_decode_smull :
    decode 0b1110_000_0110_1_0001_0000_0011_1001_0010 = .ok (.smull .al true 1 0 3 2) := by decide
theorem test_decode_smlal :
    decode 0b1110_000_0111_1_0001_0000_0011_1001_0010 = .ok (.smlal .al true 1 0 3 2) := by decide
theorem test_decode_mulSub1000 :
    decode 0b1110_000_1000_0_0001_0000_0011_1001_0010 = .ok (.mulSub1000 .al false 1 0 3 2) := by decide
theorem test_decode_mulSub1001 :
    decode 0b1110_000_1001_0_0000_0000_0000_1001_0000 = .ok (.mulSub1001 .al false 0 0 0 0) := by decide
theorem test_decode_mulSub1010 :
    decode 0b1110_000_1010_0_0001_0000_0011_1001_0010 = .ok (.mulSub1010 .al false 1 0 3 2) := by decide
theorem test_decode_mulSub1011 :
    decode 0b1110_000_1011_0_0001_0000_0011_1001_0010 = .ok (.mulSub1011 .al false 1 0 3 2) := by decide
theorem test_decode_mulSub1100 :
    decode 0b1110_000_1100_0_0000_0000_0000_1001_0000 = .ok (.mulSub1100 .al false 0 0 0 0) := by decide
theorem test_decode_mulSub1101 :
    decode 0b1110_000_1101_0_0001_0000_0011_1001_0010 = .ok (.mulSub1101 .al false 1 0 3 2) := by decide
theorem test_decode_mulSub1110 :
    decode 0b1110_000_1110_0_0001_0000_0011_1001_0010 = .ok (.mulSub1110 .al false 1 0 3 2) := by decide
theorem test_decode_mulSub1111 :
    decode 0b1110_000_1111_1_0000_0000_0000_1001_0000 = .ok (.mulSub1111 .al true 0 0 0 0) := by decide
/-- E3A00000: cond, 00, w[25:0] = 0x3A00000. -/
theorem test_decode_dp : decode 0b1110_00_11101000000000000000000000 = .ok (.dp .al 0x3A00000) := by decide

/-- Section 2.1: words an earlier pattern takes, words that just miss one. -/
theorem test_decode_overlaps :
    classify 0xE12FFF30 = some .moveRegisterToStatus ∧ classify 0xE12FFE10 = some .moveRegisterToStatus ∧
    classify 0xE120F0B0 = some .storeHalfword ∧ classify 0xE120F090 = some .moveRegisterToStatus ∧
    classify 0xE10F0001 = some .dataProcessing ∧ classify 0xE16F0F11 = some .dataProcessing ∧
    classify 0xE1400090 = some .swap ∧ classify 0xE1000190 = some .multiplyFamily ∧
    classify 0xE00000D0 = some .dataProcessing ∧ classify 0xE7F000F0 = some .loadWord := by decide

/-- Section 2.1: the unrecognised words, and their neighbours. -/
theorem test_decode_unrecognized :
    decode 0xEC000000 = .error (.unrecognizedInstruction 0xEC000000) ∧
    decode 0x0C000000 = .error (.unrecognizedInstruction 0x0C000000) ∧
    decode 0xFDFFFFFF = .error (.unrecognizedInstruction 0xFDFFFFFF) ∧
    decode 0xFEFFFFFF = .error (.unrecognizedInstruction 0xFEFFFFFF) ∧
    decode 0xFB000000 = .ok (.bl .nv 0) ∧ decode 0xFFFFFFFF = .ok (.swi .nv 0xFFFFFF) := by decide

/-! ### WellFormed: for each check an ill-formed term, whose word an earlier pattern takes -/

/-- E12FFF10 read as MSR is BX (R100, pair (4, 14)). -/
theorem test_wf_msrIsBx : (Instr.msr .al 0 0 0xF 0xF10).wf = false ∧ msrIsBx 0 0 0xF 0xF10 = true := by decide
/-- E120F0B0 read as MSR is STRH (pair (12, 14)). -/
theorem test_wf_msrIsStrh : (Instr.msr .al 0 0 0 0x0B0).wf = false ∧ msrIsStrh 0 0x0B0 = true := by decide
/-- E120F090 read as sub-operation 1001 is MSR (pair (14, 16)); so is its 1011 neighbour. -/
theorem test_wf_multiplyIsMsr : (Instr.mulSub1001 .al false 0 0xF 0 0).wf = false ∧
    (Instr.mulSub1011 .al false 0 0xF 0 0).wf = false ∧ multiplyIsMsr false 0xF = true := by decide
/-- E1000090 read as sub-operation 1000 is SWP (pair (15, 16)); so is its 1010 neighbour. -/
theorem test_wf_multiplyIsSwp : (Instr.mulSub1000 .al false 0 0 0 0).wf = false ∧
    (Instr.mulSub1010 .al false 0 0 0 0).wf = false ∧ multiplyIsSwp false 0 = true := by decide
theorem test_wf_dpIsBx : (Instr.dp .al 0x12FFF10).wf = false ∧ dpIsBx 0x12FFF10 = true := by decide
theorem test_wf_dpIsHalfword : (Instr.dp .al 0x1D100B0).wf = false ∧ dpIsHalfword 0x1D100B0 = true ∧
    dpIsHalfword 0x1D100D0 = true ∧ dpIsHalfword 0x1D100F0 = true ∧ dpIsHalfword 0x1C100B0 = true ∧
    dpIsHalfword 0x1C100D0 = false := by decide
theorem test_wf_dpIsMrs : (Instr.dp .al 0x10F0000).wf = false ∧ dpIsMrs 0x10F0000 = true := by decide
theorem test_wf_dpIsMsr : (Instr.dp .al 0x129F000).wf = false ∧ dpIsMsr 0x129F000 = true := by decide
theorem test_wf_dpIsMultiply : (Instr.dp .al 0x0000090).wf = false ∧ dpIsMultiply 0x0000090 = true := by
  decide

/-! ### Conditions (section 1.2) and banking (sections 1.3 and 2.3) -/

/-- Section 1.2: all sixteen codes with all flags false. -/
theorem test_conditions_flags_false :
    [Cond.eq, .ne, .cs, .cc, .mi, .pl, .vs, .vc, .hi, .ls, .ge, .lt, .gt, .le, .al, .nv].map
      (evaluates · false false false false) =
    [false, true, false, true, false, true, false, true, false, true, true, false, true, false, true,
      false] := by decide

/-- Section 2.2, row 1101 (N, Z, V set). -/
theorem test_conditions_row_1101 :
    [Cond.eq, .ne, .cs, .cc, .mi, .pl, .vs, .vc, .hi, .ls, .ge, .lt, .gt, .le, .al, .nv].map
      (passes · 0xD0000013) =
    [true, false, false, true, true, false, true, false, false, true, true, false, false, true, true,
      false] := by decide

/-- Section 2.3, the single-index vectors at the edges of each range. -/
theorem test_phys :
    phys 7 .fiq = .lo 7 ∧ phys 8 .user = .mid 0 ∧ phys 8 .fiq = .mid 1 ∧ phys 12 .irq = .mid 8 ∧
    phys 12 .fiq = .mid 9 ∧ phys 13 .system = .hi 0 ∧ phys 13 .undefined = .hi 5 ∧
    phys 14 .user = .hi 6 ∧ phys 14 .irq = .hi 10 ∧ phys 14 .undefined = .hi 11 ∧ phys 15 .abort = .pc := by
  decide

/-- Section 2.3, the error vectors of the ports. -/
theorem test_port_errors :
    faultOf (portRead 16 (at_ 0 0)) = some (.invalidRegisterIndex 16) ∧
    faultOf (portWrite 255 1 (at_ 0 0)) = some (.invalidRegisterIndex 255) ∧
    faultOf (portRead 8 (at_ 0 0b01111)) = some (.invalidMode none 15) ∧
    faultOf (portRead 15 (at_ 0 0b11110)) = some (.invalidMode none 30) := by decide

/-- Section 2.3, the error vectors of a step under an invalid mode. -/
theorem test_step_errors :
    faultOf (coreStep 0xE0010392 (at_ 0 0)) = some (.invalidMode (some 0xE0010392) 0) ∧
    see (exec (.b .ne 0) (at_ 0x1000 0x40000000)) (·.pPc) = some 0x1000 ∧
    faultOf (coreStep 0xEE000000 (at_ 0 0)) = some (.unrecognizedInstruction 0xEE000000) := by decide

/-! ### Branches (sections 1.5, 1.6, 2.4) -/

/-- EA800000 at 0x1000: the largest backward branch, wrapping. -/
theorem test_b_backward : see (exec (.b .al 0x800000) (at_ 0x1000 0x13)) (·.pPc) = some 0xFE001000 := by
  decide
/-- EA000001 at 0x1002: the low bits of r15 pass through. -/
theorem test_b_low_bits : see (exec (.b .al 1) (at_ 0x1002 0x13)) (·.pPc) = some 0x1006 := by decide
/-- The source's example, in IRQ mode: P_hi[10] gets old r15 plus 4, r15 stays at offset 0. -/
theorem test_bl_source_example :
    see (exec (.bl .al 0) (at_ 0x1000 0x12)) (fun t => (t.getPhys (.hi 10), t.getPhys (.hi 8), t.pPc)) =
      some (0x1004, 0, 0x1000) := by decide
/-- EB000001 at FFFFFFFC: the link value wraps. -/
theorem test_bl_wraps :
    see (exec (.bl .al 1) (at_ 0xFFFFFFFC 0x13)) (fun t => (t.getPhys (.hi 8), t.pPc)) = some (0, 0) := by
  decide
/-- The source's example: an odd target switches the state and keeps its bit 0. -/
theorem test_bx_odd :
    see (exec (.bx .al 3) (st 0 0 0 0x1001 0x100 0x13)) (fun t => (t.pPc, t.cpsr)) =
      some (0x1001, 0x33) := by decide
/-- An even target with all flags set: no flag changes. -/
theorem test_bx_even :
    see (exec (.bx .al 0) (st 0 0 0 0 0x100 0xF0000013)) (fun t => (t.pPc, t.cpsr)) =
      some (0, 0xF0000013) := by decide

/-! ### Multiplies (sections 1.4, 2.5) -/

/-- MULS 6 x 7 with all flags set: N and Z cleared, C and V kept. -/
theorem test_muls_flags :
    see (exec (.mul .al true 1 0 3 2) (st 0 0 6 7 0 0xF0000013)) short = some (0x2A, 0x30000013) := by decide
/-- MULS r0, r0, r0: the source is the destination. -/
theorem test_muls_aliased :
    see (exec (.mul .al true 0 0 0 0) (st 0xFFFF 0 0 0 0 0x13)) (fun t => (t.getPhys (.lo 0), t.cpsr)) =
      some (0xFFFE0001, 0x80000013) := by decide
theorem test_mla :
    see (exec (.mla .al false 1 0 3 2) (st 0x64 0 6 7 0 0x13)) short = some (0x8E, 0x13) := by decide
/-- MLAS: the sum wraps to 0. -/
theorem test_mlas_wraps :
    see (exec (.mla .al true 1 0 3 2) (st 1 0 0xFFFFFFFF 1 0 0x13)) short = some (0, 0x40000013) := by decide
/-- UMULLS: a low word of 0 does not set Z. -/
theorem test_umulls_low_zero :
    see (exec (.umull .al true 1 0 3 2) (st 0 0 0x10000 0x10000 0 0x13)) long = some (1, 0, 0x13) := by decide
theorem test_umulls_bit_63 :
    see (exec (.umull .al true 1 0 3 2) (st 0 0 0xFFFFFFFF 0xFFFFFFFF 0 0x13)) long =
      some (0xFFFFFFFE, 1, 0x80000013) := by decide
/-- UMLAL: the carry from the low to the high word. -/
theorem test_umlal_carry :
    see (exec (.umlal .al false 1 0 3 2) (st 0xFFFFFF00 1 0x10 0x10 0 0x13)) long = some (2, 0, 0x13) := by
  decide
/-- UMLAL r0, r1, r0, r1: the destinations are also the factors. -/
theorem test_umlal_aliased :
    see (exec (.umlal .al false 1 0 1 0) (st 0x10 3 0 0 0 0x13)) long = some (3, 0x40, 0x13) := by decide
/-- The source's example: -3 x 4. -/
theorem test_smulls_source_example :
    see (exec (.smull .al true 1 0 3 2) (st 0 0 0xFFFFFFFD 4 0 0x13)) long =
      some (0xFFFFFFFF, 0xFFFFFFF4, 0x80000013) := by decide
theorem test_smulls_most_negative :
    see (exec (.smull .al true 1 0 3 2) (st 0 0 0x80000000 0x7FFFFFFF 0 0x13)) long =
      some (0xC0000000, 0x80000000, 0x80000013) := by decide
theorem test_smlals_zero :
    see (exec (.smlal .al true 1 0 3 2) (st 0xC 0 0xFFFFFFFD 4 0 0x13)) long = some (0, 0, 0x40000013) := by
  decide
/-- Signed overflow wraps, and V does not change. -/
theorem test_smlals_overflow :
    see (exec (.smlal .al true 1 0 3 2) (st 0xFFFFFFFF 0x7FFFFFFF 0x7FFFFFFF 0x7FFFFFFF 0 0x13)) long =
      some (0xBFFFFFFF, 0, 0x80000013) := by decide
/-- MUL r15, r1, r2 writes r15 and says so; MUL r0, r15, r2 reads r15 as stored. -/
theorem test_mul_r15 :
    see (exec (.mul .al false 15 0 2 1) (st 0 0x100 0x20 0 0 0x13)) (·.pPc) = some 0x2000 ∧
    pcWritten (.mul .al false 15 0 2 1) (st 0 0x100 0x20 0 0 0x13) = true ∧
    see (exec (.mul .al false 0 0 2 15) (st 0 0 3 0 0x8000 0x13)) (fun t => (t.getPhys (.lo 0), t.pPc)) =
      some (0x18000, 0x8000) ∧
    pcWritten (.mul .al false 0 0 2 15) (st 0 0 3 0 0x8000 0x13) = false := by decide

/-! ### Errors and refusals (sections 2.5, 2.6) -/

/-- Section 2.5: the sub-operations without a handler, and UMULL with RdHi = RdLo. -/
theorem test_multiply_errors :
    faultOf (coreStep 0xE0410392 (at_ 0 0x13)) = some (.unsupportedOperation 0xE0410392 (some 0b0010)) ∧
    faultOf (coreStep 0xE0610392 (at_ 0 0x13)) = some (.unsupportedOperation 0xE0610392 (some 0b0011)) ∧
    faultOf (coreStep 0xE1010392 (at_ 0 0x13)) = some (.unsupportedOperation 0xE1010392 (some 0b1000)) ∧
    faultOf (coreStep 0xE1810392 (at_ 0 0x13)) = some (.unsupportedOperation 0xE1810392 (some 0b1100)) ∧
    faultOf (coreStep 0xE1F10392 (at_ 0 0x13)) = some (.unsupportedOperation 0xE1F10392 (some 0b1111)) ∧
    refusalOf (coreStep 0xE0811392 (at_ 0 0x13)) = some .longMultiplySameDestination ∧
    see (exec (.umaal .ne false 0 0 0 0) (at_ 0 0x40000013)) (·.cpsr) = some 0x40000013 := by decide

/-- Section 2.6: each word of a category without a handler, with condition AL. -/
theorem test_unexecuted_transfers :
    ∀ w ∈ ([0xEF000000, 0xE8900003, 0xE8800003, 0xE5910000, 0xE5810000, 0xE1D100B0] : List Word),
      faultOf (coreStep w (at_ 0 0x13)) = some (.unsupportedOperation w none) := by
  intro w hw
  simp only [List.mem_cons, List.not_mem_nil, or_false] at hw
  rcases hw with rfl | rfl | rfl | rfl | rfl | rfl <;> decide
theorem test_unexecuted_others :
    ∀ w ∈ ([0xE1D100D0, 0xE1D100F0, 0xE1C100B0, 0xE10F0000, 0xE129F000, 0xE1020091, 0xE3A00000] : List Word),
      faultOf (coreStep w (at_ 0 0x13)) = some (.unsupportedOperation w none) := by
  intro w hw
  simp only [List.mem_cons, List.not_mem_nil, or_false] at hw
  rcases hw with rfl | rfl | rfl | rfl | rfl | rfl | rfl <;> decide

/-- Section 2.6: the same error is skipped when the condition fails; decode and the state bit come first. -/
theorem test_order_of_checks :
    see (exec (.swi .ne 0) (at_ 8 0x40000013)) (·.pPc) = some 8 ∧
    see (exec (.dp .eq 0x3A00000) (at_ 8 0x13)) (·.pPc) = some 8 ∧
    faultOf (coreStep 0x0E000000 (at_ 0 0x13)) = some (.unrecognizedInstruction 0x0E000000) ∧
    faultOf (coreStep 0xFE000000 (at_ 0 0x13)) = some (.unrecognizedInstruction 0xFE000000) ∧
    refusalOf (coreStep 0xEE000000 (at_ 0 0x33)) = some .alternateState := by decide

/-! ### The sequencer (section 3) -/

/-- From reset, MUL r1, r2, r3 placed by the host: r15 moves on by 4. -/
theorem test_step_from_reset :
    see (step (State.reset.withFetchWord 32 0xE0010392)) (fun t => (t.pPc, t.getPhys (.lo 1), t.cpsr)) =
      some (4, 0, 0x13) := by decide
/-- Reset with nothing placed: no instruction at r15. -/
theorem test_step_reset_empty : refusalOf (step State.reset) = some .noInstruction := by decide
/-- Program P7, step 1, in IRQ mode. -/
theorem test_step_p7 :
    see (step ((at_ 0 0x12).withFetchWord 32 0xEB000010)) (fun t => (t.pPc, t.getPhys (.hi 10))) =
      some (0x40, 4) := by decide
/-- Program P4, step 2: the state bit is tested before the alignment of r15. -/
theorem test_step_p4 : refusalOf (step (at_ 0x301 0x33)) = some .alternateState ∧
    refusalOf (step (at_ 0x302 0x13)) = some .misalignedFetch := by decide
/-- Program P5, step 2. -/
theorem test_step_p5 :
    faultOf (step ((at_ 0x08000004 0x13).withFetchWord 32 0xE5910000)) =
      some (.unsupportedOperation 0xE5910000 none) := by decide

/-! ### Witnesses: for each statement with hypotheses, values that meet all of them together -/

theorem witness_DecodeOfEncodeIsIdentity :
    (Instr.msr .al 1 1 0xF 0xFFF).wf = true ∧ (Instr.mulSub1001 .al true 0 0xF 0 0).wf = true ∧
    (Instr.mulSub1000 .nv false 15 15 1 15).wf = true ∧ (Instr.dp .eq 0).wf = true := by decide

theorem witness_EncodeOfDecodeIsIdentity :
    decode 0xFBFFFFFF = .ok (.bl .nv 0xFFFFFF) ∧ decode 0 = .ok (.dp .eq 0) := by decide

theorem witness_UnrecognizedWordsAreTheCoprocessorSpace :
    (0xCFFFFFFF : Word).extractLsb' 24 4 = 0b1111 ∧ (0xBFFFFFFF : Word).extractLsb' 24 4 = 0b1111 ∧
    (0x0C000000 : Word).extractLsb' 24 4 = 0b1100 ∧ (0xFEFFFFFF : Word).extractLsb' 24 4 = 0b1110 ∧
    (0x0BFFFFFF : Word).extractLsb' 24 4 = 0b1011 := by decide

theorem witness_DecoderTakesTheFirstMatchingPattern :
    (∃ p, patterns[3]? = some p ∧ (0xE12FFF10 : Word) &&& p.mask = p.value) ∧
    (∃ p, patterns[13]? = some p ∧ (0xE12FFF10 : Word) &&& p.mask = p.value) :=
  ⟨⟨_, rfl, by decide⟩, ⟨_, rfl, by decide⟩⟩

theorem witness_DecodeIgnoresTheConditionField :
    (0x012FFF10 : Word).extractLsb' 0 28 = (0xE12FFF10 : Word).extractLsb' 0 28 := by decide

theorem witness_PatternOverlapsAreTheThirteenPairs :
    ∃ p q, (15 : Nat) < 16 ∧ patterns[15]? = some p ∧ patterns[16]? = some q ∧
      (0xE0000291 : Word) &&& p.mask = p.value ∧ (0xE0000291 : Word) &&& q.mask = q.value :=
  ⟨_, _, by decide, rfl, rfl, by decide, by decide⟩

theorem witness_UnbankedAndSixBankRegistersFollowTheirFormulas :
    (Mode.undefined, 5) ∈ [(Mode.system, 0), (.user, 0), (.fiq, 1), (.supervisor, 2), (.abort, 3), (.irq, 4),
      (.undefined, 5)] := by decide

/-- One bank and two banks, at the edges of each range of register numbers. -/
theorem witness_BanksAliasExactlyWithinTheirClass :
    SameBank 7 .fiq .user ∧ SameBank 8 .irq .user ∧ ¬ SameBank 8 .fiq .user ∧ SameBank 12 .fiq .fiq ∧
    ¬ SameBank 12 .user .fiq ∧ SameBank 13 .user .system ∧ ¬ SameBank 13 .irq .fiq ∧
    ¬ SameBank 14 .user .supervisor ∧ SameBank 14 .abort .abort ∧ SameBank 15 .user .fiq := by
  refine ⟨?_, ?_, ?_, ?_, ?_, ?_, ?_, ?_, ?_, ?_⟩ <;> unfold SameBank <;> decide

theorem witness_RegisterWritesAreIsolatedBetweenBanks :
    (at_ 0 0x10).halted = false ∧ modeOf (at_ 0 0x10).cpsr = some .user ∧ modeOf 0x11 = some .fiq ∧
    modeOf 0x1F = some .system ∧ SameBank 13 .user .system ∧ ¬ SameBank 8 .user .fiq ∧
    SameBank 15 .user .fiq ∧ SameBank 0 .user .fiq := by
  refine ⟨rfl, rfl, rfl, rfl, ?_, ?_, ?_, ?_⟩ <;> unfold SameBank <;> decide

theorem witness_StatusFlagOperationsTouchOneBit :
    (30 : Nat) ≠ 31 ∧ (setFlagN true 0).getLsbD 30 = false ∧ (setFlagZ false 0xFFFFFFFF).getLsbD 31 = true := by
  decide

theorem witness_ModeDecodesTheSevenPatterns :
    modeOf 0xFFFFFFF0 = some .user ∧ modeOf 0x1F = some .system ∧
    (at_ 0 0b01111).cpsr.extractLsb' 0 5 ∉ [0b10000#5, 0b10001#5, 0b10010#5, 0b10011#5, 0b10111#5, 0b11011#5,
      0b11111#5] := by decide

theorem witness_RawStatusWriteStoresAllBitsAndMovesNoData :
    (at_ 0 0x13).halted = false ∧ see (statusWrite 0xFFFFFFFF (at_ 0 0x13)) (·.cpsr) = some 0xFFFFFFFF := by
  decide

theorem witness_PortRejectsAnIndexAboveFifteenBeforeTheMode :
    (at_ 0 0).halted = false ∧ (15 : Nat) < 16 ∧ modeOf (at_ 0 0).cpsr = none := by decide

theorem witness_InvalidModeStopsEveryRegisterAccess :
    modeOf (at_ 0 0x40000000).cpsr = none ∧ (at_ 0 0x40000000).halted = false ∧ (15 : Nat) ≤ 15 ∧
    passes .eq (at_ 0 0x40000000).cpsr = true ∧ (1 : RegIdx) ≠ 0 := by decide

theorem witness_SavedStatusSlotsAreNeverReadNorWritten :
    (∃ t, step (fetching 0xEB000000) = .next t) ∧ (∃ t, hostAct (.readRegister 15) (at_ 0 0x13) = .next t) ∧
    (∃ t, hostAct (.writeRegister 13 1) (at_ 0 0x13) = .next t) ∧
    (∃ t, hostAct .readStatus (at_ 0 0x13) = .next t) ∧
    (∃ t, hostAct (.writeStatus 0x10) (at_ 0 0x13) = .next t) :=
  ⟨⟨_, rfl⟩, ⟨_, rfl⟩, ⟨_, rfl⟩, ⟨_, rfl⟩, ⟨_, rfl⟩⟩

/-- Conditions that fail: one that depends on the flags, on an executed and an unexecuted instruction, and NV. -/
theorem witness_FailedConditionChangesNothing :
    passes (Instr.bl .ne 0x10).cond 0x40000013 = false ∧ passes (Instr.swi .eq 0).cond 0x13 = false ∧
    passes (Instr.mul .nv true 15 0 0 0).cond 0xF0000013 = false := by decide

theorem witness_BranchAddsTheSignedOffset :
    passes .eq (at_ 0x1000 0x40000013).cpsr = true ∧ modeOf (at_ 0x1000 0x40000013).cpsr = some .supervisor := by
  decide

theorem witness_BranchLinkSavesTheReturnAddress :
    passes .lt (at_ 0x2000 0x80000010).cpsr = true ∧ modeOf (at_ 0x2000 0x80000010).cpsr = some .user := by
  decide

theorem witness_BranchExchangeTakesStateFromBitZero :
    passes .al (st 0 0 0 0x1001 0 0x11).cpsr = true ∧ modeOf (st 0 0 0 0x1001 0 0x11).cpsr = some .fiq ∧
    ((st 0 0 0 0x1001 0 0x11).getPhys (phys 3 .fiq)).getLsbD 0 = true ∧
    ((st 0 0 0 0x1000 0 0x11).getPhys (phys 3 .fiq)).getLsbD 0 = false := by decide

/-- Both clauses: r15 with low bits set, and the wrap at the top of the address space. -/
theorem witness_BranchesForceNoAlignment :
    passes .al (at_ 0xFFFFFFFC 0x13).cpsr = true ∧ modeOf (at_ 0xFFFFFFFC 0x13).cpsr = some .supervisor ∧
    (at_ 0xFFFFFFFC 0x13).pPc = 0xFFFFFFFC ∧ (at_ 0x1003 0x13).pPc.extractLsb' 0 2 = 0b11 := by decide

theorem witness_BranchLinkThenExchangeReturns :
    modeOf (at_ 0x1000 0x12).cpsr = some .irq ∧ (at_ 0x1000 0x12).pPc.getLsbD 0 = false := by decide

/-- A set of operands for the multiply statements, with all flags set. -/
def operands : State := st 1 2 3 0xFFFFFFFF 0 0xF0000013

theorem witness_MulGivesTheLowWordOfTheProduct :
    passes .mi operands.cpsr = true ∧ modeOf operands.cpsr = some .supervisor := by decide

theorem witness_MlaAddsTheAccumulatorRegister :
    passes .vs operands.cpsr = true ∧ modeOf operands.cpsr = some .supervisor := by decide

theorem witness_UmullGivesTheExactUnsignedProduct :
    passes .cs operands.cpsr = true ∧ modeOf operands.cpsr = some .supervisor ∧ (15 : RegIdx) ≠ 14 := by decide

theorem witness_UmlalAddsTheUnsignedAccumulator :
    passes .ls operands.cpsr = true ∧ modeOf operands.cpsr = some .supervisor ∧ (0 : RegIdx) ≠ 15 := by decide

theorem witness_SmullGivesTheExactSignedProduct :
    passes .ge operands.cpsr = true ∧ modeOf operands.cpsr = some .supervisor ∧ (1 : RegIdx) ≠ 0 := by decide

theorem witness_SmlalAddsTheSignedAccumulator :
    passes .le operands.cpsr = true ∧ modeOf operands.cpsr = some .supervisor ∧ (13 : RegIdx) ≠ 14 := by decide

theorem witness_MultiplyFlagsAreNegativeAndZeroOfTheResult :
    passes .al (at_ 0 0x13).cpsr = true ∧ modeOf (at_ 0 0x13).cpsr = some .supervisor ∧
    (∃ t, exec (.mul .al true 1 0 3 2) (at_ 0 0x13) = .next t) ∧
    (∃ t, exec (.mla .al false 1 0 3 2) (at_ 0 0x13) = .next t) ∧
    (∃ t, exec (.umull .al true 1 0 3 2) (at_ 0 0x13) = .next t) ∧
    (∃ t, exec (.umlal .al false 1 0 3 2) (at_ 0 0x13) = .next t) ∧
    (∃ t, exec (.smull .al true 1 0 3 2) (at_ 0 0x13) = .next t) ∧
    (∃ t, exec (.smlal .al false 1 0 3 2) (at_ 0 0x13) = .next t) :=
  ⟨rfl, rfl, ⟨_, rfl⟩, ⟨_, rfl⟩, ⟨_, rfl⟩, ⟨_, rfl⟩, ⟨_, rfl⟩, ⟨_, rfl⟩⟩

/-- Both operands negative, so that both corrections of the high word act. -/
theorem witness_SignedAndUnsignedProductsDifferInTheHighWord :
    passes .al (st 0 0 0xFFFFFFFF 0x80000000 0 0x13).cpsr = true ∧
    modeOf (st 0 0 0xFFFFFFFF 0x80000000 0 0x13).cpsr = some .supervisor ∧ (1 : RegIdx) ≠ 0 := by decide

theorem witness_LongMultiplyIntoOneRegisterIsRefused :
    passes .al (at_ 0 0x13).cpsr = true ∧ passes .al (at_ 0 0).cpsr = true := by decide

theorem witness_UnexecutedCategoriesFaultWhenTheirConditionPasses :
    passes .eq (at_ 0 0x40000013).cpsr = true ∧ passes .ne (at_ 0 0x40000013).cpsr = false := by decide

theorem witness_UmaalIsUnsupported :
    passes .al (at_ 0 0x13).cpsr = true ∧ passes .nv (at_ 0 0x13).cpsr = false := by decide

theorem witness_UnnamedSubOperationsAreUnsupported :
    passes .lt (at_ 0 0x80000013).cpsr = true ∧ passes .ge (at_ 0 0x80000013).cpsr = false := by decide

theorem fetches_fetching (w : Word) (h : Memory.readWord (fetching w).imem 0x1000 = some w) :
    Fetches (fetching w) w :=
  ⟨rfl, by show instructionState (setInstructionState .primary 0x13) = .primary; decide,
    by show ((0x1000 : Word) &&& 0xFFFFFFFC).extractLsb' 0 2 = 0; decide, h⟩

theorem witness_StepRunsTheDecodedInstruction :
    Fetches (fetching 0xE0010392) 0xE0010392 ∧ decode 0xE0010392 = .ok (.mul .al false 1 0 3 2) :=
  ⟨fetches_fetching _ (by decide), by decide⟩

theorem witness_StepRefusesWhatItCannotFetch :
    ((at_ 0 0x13).record (.refused .halted)).halted = true ∧
    ((at_ 0x301 0x33).halted = false ∧ instructionState (at_ 0x301 0x33).cpsr = .alternate) ∧
    ((at_ 0x303 0x13).halted = false ∧ instructionState (at_ 0x303 0x13).cpsr = .primary ∧
      (at_ 0x303 0x13).pPc.extractLsb' 0 2 ≠ 0) ∧
    (State.reset.halted = false ∧ instructionState State.reset.cpsr = .primary ∧
      State.reset.pPc.extractLsb' 0 2 = 0 ∧ Memory.readWord State.reset.imem State.reset.pPc = none) := by
  decide

theorem witness_UnrecognizedWordFaultsWhateverItsCondition :
    Fetches (fetching 0x0C000000) 0x0C000000 ∧ Fetches (fetching 0xFEFFFFFF) 0xFEFFFFFF ∧
    (0x0C000000 : Word).extractLsb' 24 4 = 0b1100 ∧ (0xFEFFFFFF : Word).extractLsb' 24 4 = 0b1110 :=
  ⟨fetches_fetching _ (by decide), fetches_fetching _ (by decide), by decide, by decide⟩

/-- For the statements about any step that answers next: a branch, a flag-setting multiply, an exchange. -/
theorem witness_StepLeavesAllOtherStateUnchanged :
    (∃ t, step (fetching 0xEB000000) = .next t) ∧ (∃ t, step (fetching 0xE0110392) = .next t) ∧
    (∃ t, step (fetching 0xE12FFF13) = .next t) := ⟨⟨_, rfl⟩, ⟨_, rfl⟩, ⟨_, rfl⟩⟩

theorem witness_EveryStepKeepsTheInvariant :
    Inv (fetching 0xEB000000) ∧ ∃ t, step (fetching 0xEB000000) = .next t :=
  ⟨⟨by decide, ⟨.supervisor, by decide⟩, rfl, by decide⟩, ⟨_, rfl⟩⟩

/-- A state that meets the invariant in its Alternate clause. -/
theorem witness_Inv_alternate : Inv (at_ 0x301 0x33) :=
  ⟨by decide, ⟨.supervisor, by decide⟩, rfl, fun _ => by decide⟩

theorem witness_ResetMeetsTheInvariant : Memory.wf [(0, 0xFF), (0xFFFFFFFF, 0)] := by decide

theorem witness_OnlyTheRawStatusPortChangesTheMode :
    (∃ t, step (fetching 0xE12FFF13) = .next t) ∧
    (∃ t, hostAct (.writeStatus 0x10) (at_ 0 0x13) = .next t ∧ t.cpsr ≠ (at_ 0 0x13).cpsr) ∧
    (∃ t, hostAct (.writeRegister 15 1) (at_ 0 0x13) = .next t) :=
  ⟨⟨_, rfl⟩, ⟨_, rfl, by decide⟩, ⟨_, rfl⟩⟩

/-- Two states that differ in r14 of FIQ mode, which Supervisor mode does not see; the three outcomes. -/
theorem witness_HiddenBanksDoNotInfluenceExecution :
    modeOf (at_ 0 0x13).cpsr = some .supervisor ∧
    ((at_ 0 0x13).setPhys (.hi 7) 1).cpsr = (at_ 0 0x13).cpsr ∧
    (∀ r, ((at_ 0 0x13).setPhys (.hi 7) 1).getPhys (phys r .supervisor) =
      (at_ 0 0x13).getPhys (phys r .supervisor)) ∧
    (at_ 0 0x13).setPhys (.hi 7) 1 ≠ at_ 0 0x13 ∧ (∃ t, exec (.bx .al 14) (at_ 0 0x13) = .next t) ∧
    (∃ f, exec (.swi .al 0) (at_ 0 0x13) = .fault f) ∧
    (∃ f, exec (.umull .al false 1 1 0 0) (at_ 0 0x13) = .refused f) :=
  ⟨rfl, rfl, by decide, by decide, ⟨_, rfl⟩, ⟨_, rfl⟩, ⟨_, rfl⟩⟩

theorem witness_BranchToItselfIsAFixedPoint :
    Fetches (fetching 0xEA000000) 0xEA000000 ∧ modeOf (fetching 0xEA000000).cpsr = some .supervisor :=
  ⟨fetches_fetching _ (by decide), by decide⟩

/-- An executed multiply and a skipped branch; and each of the ways to write r15. -/
theorem witness_PcAdvancesByFourUnlessWritten :
    (Fetches (fetching 0xE0010392) 0xE0010392 ∧ decode 0xE0010392 = .ok (.mul .al false 1 0 3 2) ∧
      pcWritten (.mul .al false 1 0 3 2) (fetching 0xE0010392) = false ∧
      ∃ t, step (fetching 0xE0010392) = .next t) ∧
    (Fetches (fetching 0xFA000000) 0xFA000000 ∧ decode 0xFA000000 = .ok (.b .nv 0) ∧
      pcWritten (.b .nv 0) (fetching 0xFA000000) = false ∧ ∃ t, step (fetching 0xFA000000) = .next t) ∧
    pcWritten (.smlal .al false 1 15 0 0) (at_ 0 0x13) = true ∧
    pcWritten (.umull .al false 15 1 0 0) (at_ 0 0x13) = true ∧
    pcWritten (.mla .al false 14 15 15 15) (at_ 0 0x13) = false :=
  ⟨⟨fetches_fetching _ (by decide), by decide, by decide, ⟨_, rfl⟩⟩,
    ⟨fetches_fetching _ (by decide), by decide, by decide, ⟨_, rfl⟩⟩, by decide, by decide, by decide⟩

theorem witness_NothingRunsAfterAFatalOrRefusedStep :
    (∀ t, step State.reset ≠ .next t) ∧ (∀ t, step (fetching 0xEF000000) ≠ .next t) := by
  have h1 : step State.reset = .refused .noInstruction := rfl
  have h2 : step (fetching 0xEF000000) = .fault (.unsupportedOperation 0xEF000000 none) := rfl
  exact ⟨(fun t h => by cases h1.symm.trans h), (fun t h => by cases h2.symm.trans h)⟩

theorem witness_LoadedWordIsTheNextInstructionRun :
    decodeTableWord 32 0xE12FFF13 = some (.bx .al 3) ∧ Fetches (fetching 0xE0010392) 0xE0010392 :=
  ⟨by decide, fetches_fetching _ (by decide)⟩

end Sys2Proof.Tests
end

section
/-! PROOF. What a halted machine answers and what a step without a next state leaves behind
(spec/00_scope.md R12, by decision D8; spec/40_step_and_condition.md R132). -/

namespace Sys2Proof.Machine

variable {s : State}

theorem whileRunning_of_halted {α : Type} (r : Result α) (h : s.halted = true) :
    whileRunning s r = .refused .halted := if_pos h

/-- The halted bit is the first thing a step looks at (R67). -/
theorem step_of_halted (h : s.halted = true) : step s = .refused .halted := if_pos h

/-- Every port looks at the halted bit before anything else (R12). -/
theorem hostAct_of_halted (a : HostAction) (h : s.halted = true) : hostAct a s = .refused .halted := by
  cases a with
  | readRegister i => simp [hostAct, portRead, whileRunning_of_halted _ h]
  | writeRegister i v => exact whileRunning_of_halted _ h
  | readStatus => simp [hostAct, statusRead, whileRunning_of_halted _ h]
  | writeStatus v => exact whileRunning_of_halted _ h

/-- A fault and a refusal both leave the state the step began with, halted (R132). -/
theorem record_of_ne_next {o : Result State} (h : ∀ t, o ≠ .next t) :
    s.record o = { s with halted := true } := by
  cases o with
  | next t => exact absurd rfl (h t)
  | fault f => rfl
  | refused r => rfl

/-- The halted bit is no register: setting it leaves every physical word alone. -/
theorem regFrame_halt (s : State) : RegFrame [] s { s with halted := true } := fun _ _ => rfl

/-- Settles O49: the record of such a step is its starting state with the halted bit set, and a halted
machine refuses every step and every host action. -/
theorem nothingRunsAfterAFatalOrRefusedStep : Obligations.NothingRunsAfterAFatalOrRefusedStep := by
  intro s hstop
  rw [record_of_ne_next hstop]
  exact ⟨rfl, regFrame_halt s, rfl, rfl, rfl, step_of_halted rfl, fun a => hostAct_of_halted a rfl⟩

end Sys2Proof.Machine
end

section
/-! PROOF. Noninterference, said once: an instruction reads the status word and the registers of the current
mode, and it writes through the same accessors, so any relation between states that these accessors respect is
kept by `exec`. The states that agree on what a mode sees are one such relation (spec/10_state.md R30, R31); the
states that differ in the saved-status slots alone are another (R44). -/

namespace Sys2Proof.Machine

/-- Two outcomes of one kind: next states related by `R`, the same fault, or the same refusal. -/
inductive Alike {α : Type} (R : α → α → Prop) : Result α → Result α → Prop where
  | next {a b : α} (h : R a b) : Alike R (.next a) (.next b)
  | fault (f : Fault) : Alike R (.fault f) (.fault f)
  | refused (r : Refusal) : Alike R (.refused r) (.refused r)

section Outcomes

variable {α β : Type} {Q : α → α → Prop} {R : β → β → Prop}

theorem Alike.exists_next {r r' : Result α} {a : α} (h : Alike Q r r') (hr : r = .next a) :
    ∃ b, r' = .next b ∧ Q a b := by
  subst hr
  cases h with
  | next hab => exact ⟨_, rfl, hab⟩

theorem Alike.eq_fault {r r' : Result α} {f : Fault} (h : Alike Q r r') (hr : r = .fault f) :
    r' = .fault f := by
  subst hr; cases h; rfl

theorem Alike.eq_refused {r r' : Result α} {f : Refusal} (h : Alike Q r r') (hr : r = .refused f) :
    r' = .refused f := by
  subst hr; cases h; rfl

theorem Alike.andThen {r r' : Result α} {k k' : α → Result β} (h : Alike Q r r')
    (hk : ∀ {a b}, Q a b → Alike R (k a) (k' b)) : Alike R (andThen r k) (andThen r' k') := by
  cases h with
  | next hab => exact hk hab
  | fault f => exact .fault f
  | refused f => exact .refused f

theorem Alike.andThen_same (r : Result α) {k k' : α → Result β} (hk : ∀ a, Alike R (k a) (k' a)) :
    Alike R (Machine.andThen r k) (Machine.andThen r k') := by
  cases r with
  | next a => exact hk a
  | fault f => exact .fault f
  | refused f => exact .refused f

theorem Alike.whileRunning {r r' : Result α} {s u : State} (hh : u.halted = s.halted) (h : Alike Q r r') :
    Alike Q (whileRunning s r) (whileRunning u r') := by
  simp only [Machine.whileRunning, hh]
  split
  · exact .refused _
  · exact h

end Outcomes

/-- A relation the accessors of an instruction respect: equal status words, equal registers of the current
mode; and writing such a register, or a status word of the same mode, on both sides keeps it. -/
structure Indistinct (R : State → State → Prop) : Prop where
  cpsr : ∀ {s u}, R s u → u.cpsr = s.cpsr
  getPhys : ∀ {s u m} (i : RegIdx), R s u → modeOf s.cpsr = some m →
    u.getPhys (phys i m) = s.getPhys (phys i m)
  setPhys : ∀ {s u m} (i : RegIdx) (v : Word), R s u → modeOf s.cpsr = some m →
    R (s.setPhys (phys i m) v) (u.setPhys (phys i m) v)
  setCpsr : ∀ {s u} (w : Word), R s u → modeOf w = modeOf s.cpsr → R (s.setCpsr w) (u.setCpsr w)

namespace Indistinct

variable {R : State → State → Prop} {s u : State} {c : Cond}

theorem readReg_eq (hR : Indistinct R) (h : R s u) (word : Option Word) (i : RegIdx) :
    readReg word i u = readReg word i s := by
  have hc := hR.cpsr h
  cases hm : modeOf s.cpsr with
  | none => rw [readReg_of_none word i hm, readReg_of_none word i (hc ▸ hm), hc]
  | some m => rw [readReg_of_some word i hm, readReg_of_some word i (hc ▸ hm), hR.getPhys i h hm]

/-- Both sides read the same value, whatever they then do with it. -/
theorem read {β : Type} {Q : β → β → Prop} (hR : Indistinct R) (h : R s u) {word : Option Word} {i : RegIdx}
    {k k' : Word → Result β} (hk : ∀ v, Alike Q (k v) (k' v)) :
    Alike Q (andThen (readReg word i s) k) (andThen (readReg word i u) k') := by
  rw [hR.readReg_eq h]
  exact .andThen_same _ hk

theorem writeReg (hR : Indistinct R) (h : R s u) (word : Option Word) (i : RegIdx) (v : Word) :
    Alike R (writeReg word i v s) (writeReg word i v u) := by
  have hc := hR.cpsr h
  cases hm : modeOf s.cpsr with
  | none =>
    rw [writeReg_of_none word i v hm, writeReg_of_none word i v (hc ▸ hm), hc]
    exact .fault _
  | some m =>
    rw [writeReg_of_some word i v hm, writeReg_of_some word i v (hc ▸ hm)]
    exact .next (hR.setPhys i v h hm)

theorem whenPasses (hR : Indistinct R) (h : R s u) {body body' : Result State} (hb : Alike R body body') :
    Alike R (whenPasses c s body) (whenPasses c u body') := by
  simp only [Machine.whenPasses, hR.cpsr h]
  split
  · exact hb
  · exact .next h

theorem unsupported (hR : Indistinct R) (h : R s u) (word : Word) (field : Option (BitVec 4)) :
    Alike R (unsupported word field c s) (unsupported word field c u) :=
  hR.whenPasses h (.fault _)

/-- The flags of a multiply, written on both sides. -/
theorem multiplyFlags (hR : Indistinct R) (h : R s u) (sf n z : Bool) :
    R (s.setCpsr (multiplyFlags sf n z s.cpsr)) (u.setCpsr (multiplyFlags sf n z u.cpsr)) := by
  rw [hR.cpsr h]
  exact hR.setCpsr _ h (by simp)

theorem finishShort (hR : Indistinct R) (h : R s u) (word : Option Word) (sf : Bool) (rd : RegIdx) (r : Word) :
    Alike R (finishShort word sf rd r s) (finishShort word sf rd r u) :=
  (hR.writeReg h word rd r).andThen fun h1 => .next (hR.multiplyFlags h1 ..)

theorem finishLong (hR : Indistinct R) (h : R s u) (word : Option Word) (sf : Bool) (rdHi rdLo : RegIdx)
    (p : DWord) : Alike R (finishLong word sf rdHi rdLo p s) (finishLong word sf rdHi rdLo p u) :=
  (hR.writeReg h word rdLo _).andThen fun h1 =>
  (hR.writeReg h1 word rdHi _).andThen fun h2 => .next (hR.multiplyFlags h2 ..)

theorem longProduct_eq (hR : Indistinct R) (h : R s u) (word : Option Word) (widen : Word → DWord)
    (rm rs : RegIdx) : longProduct word widen rm rs u = longProduct word widen rm rs s := by
  simp only [longProduct, hR.readReg_eq h]

theorem longMultiply (hR : Indistinct R) (h : R s u) (word : Word) (widen : Word → DWord) (sf : Bool)
    (rdHi rdLo rs rm : RegIdx) :
    Alike R (longMultiply word widen c sf rdHi rdLo rs rm s) (longMultiply word widen c sf rdHi rdLo rs rm u) := by
  refine hR.whenPasses h ?_
  split
  · exact .refused _
  · rw [hR.longProduct_eq h]
    exact .andThen_same _ fun p => hR.finishLong h ..

theorem longMultiplyAccumulate (hR : Indistinct R) (h : R s u) (word : Word) (widen : Word → DWord) (sf : Bool)
    (rdHi rdLo rs rm : RegIdx) :
    Alike R (longMultiplyAccumulate word widen c sf rdHi rdLo rs rm s)
      (longMultiplyAccumulate word widen c sf rdHi rdLo rs rm u) := by
  refine hR.whenPasses h ?_
  split
  · exact .refused _
  · rw [hR.longProduct_eq h]
    exact .andThen_same _ fun p => hR.read h fun hi => hR.read h fun lo => hR.finishLong h ..

/-- No instruction tells two indistinct states apart. -/
theorem exec (hR : Indistinct R) (h : R s u) (i : Instr) : Alike R (exec i s) (exec i u) := by
  cases i
  case b c off => exact hR.whenPasses h <| hR.read h fun v => hR.writeReg h ..
  case bl c off =>
    exact hR.whenPasses h <| hR.read h fun v => (hR.writeReg h ..).andThen fun h1 => hR.writeReg h1 ..
  case bx c rm =>
    refine hR.whenPasses h <| hR.read h fun v => ?_
    rw [hR.cpsr h]
    exact hR.writeReg (hR.setCpsr _ h (modeOf_setInstructionState ..)) ..
  case mul c sf rd n rs rm =>
    exact hR.whenPasses h <| hR.read h fun a => hR.read h fun b => hR.finishShort h ..
  case mla c sf rd rn rs rm =>
    exact hR.whenPasses h <| hR.read h fun a => hR.read h fun b => hR.read h fun acc => hR.finishShort h ..
  case umull | smull => exact hR.longMultiply h ..
  case umlal | smlal => exact hR.longMultiplyAccumulate h ..
  all_goals exact hR.unsupported h ..

end Indistinct

/-! ### What a mode sees -/

/-- The states `s` and `u` have one status word, in mode `m`, and agree on the sixteen registers `m` sees. -/
def SeenAlike (m : Mode) (s u : State) : Prop :=
  modeOf s.cpsr = some m ∧ u.cpsr = s.cpsr ∧ ∀ r, u.getPhys (phys r m) = s.getPhys (phys r m)

theorem indistinct_seenAlike (m : Mode) : Indistinct (SeenAlike m) where
  cpsr h := h.2.1
  getPhys i h hm := by
    obtain ⟨hmode, -, hregs⟩ := h
    obtain rfl := Option.some.inj (hmode.symm.trans hm)
    exact hregs i
  setPhys i v h hm := by
    obtain ⟨hmode, hcpsr, hregs⟩ := h
    obtain rfl := Option.some.inj (hmode.symm.trans hm)
    refine ⟨by simpa using hmode, by simpa using hcpsr, fun r => ?_⟩
    rw [getPhys_setPhys, getPhys_setPhys, hregs r]
  setCpsr w h hw := by
    obtain ⟨hmode, -, hregs⟩ := h
    exact ⟨hw.trans hmode, rfl, hregs⟩

/-- Settles O46: agreement on what the mode sees is indistinct, so `exec` keeps it. -/
theorem hiddenBanksDoNotInfluenceExecution : Obligations.HiddenBanksDoNotInfluenceExecution := by
  intro i s s2 m hm hcpsr hregs
  have h : Alike (SeenAlike m) (exec i s) (exec i s2) := (indistinct_seenAlike m).exec ⟨hm, hcpsr, hregs⟩ i
  refine ⟨fun t ht => ?_, fun f => h.eq_fault, fun f => h.eq_refused⟩
  obtain ⟨t2, ht2, -, hcpsr2, hregs2⟩ := h.exists_next ht
  exact ⟨t2, ht2, hcpsr2, hregs2⟩

/-! ### The saved-status slots -/

/-- The slots of `s` are `y`, and `u` is `s` with the slots `x` in their place. -/
def SlotsDiffer (y x : Vector Word 6) (s u : State) : Prop := s.spsr = y ∧ u = { s with spsr := x }

variable {y x : Vector Word 6} {s u : State}

theorem indistinct_slotsDiffer (y x : Vector Word 6) : Indistinct (SlotsDiffer y x) where
  cpsr h := by obtain ⟨-, rfl⟩ := h; rfl
  getPhys i h _ := by
    obtain ⟨-, rfl⟩ := h
    rfl
  setPhys {_ _ m} i v h _ := by
    obtain ⟨hy, rfl⟩ := h
    exact ⟨by simpa using hy, by cases phys i m <;> rfl⟩
  setCpsr w h _ := by
    obtain ⟨hy, rfl⟩ := h
    exact ⟨hy, rfl⟩

theorem coreStep_slotsDiffer (h : SlotsDiffer y x s u) (w : Word) :
    Alike (fun r r' => SlotsDiffer y x r.1 r'.1 ∧ r'.2 = r.2) (coreStep w s) (coreStep w u) := by
  have hexec := (indistinct_slotsDiffer y x).exec h
  obtain ⟨-, rfl⟩ := h
  simp only [coreStep]
  split
  · exact .refused _
  split
  · exact .refused _
  split
  · exact .fault _
  · exact (hexec _).andThen fun ht => .next ⟨ht, rfl⟩

theorem afterStep_slotsDiffer {r r' : State × Bool} (h : SlotsDiffer y x r.1 r'.1) (hw : r'.2 = r.2) :
    SlotsDiffer y x (afterStep r) (afterStep r') := by
  obtain ⟨hy, hu⟩ := h
  simp only [afterStep, hw, hu]
  split
  · exact ⟨hy, rfl⟩
  · exact ⟨hy, rfl⟩

theorem step_slotsDiffer (h : SlotsDiffer y x s u) : Alike (SlotsDiffer y x) (step s) (step u) := by
  have hcore := coreStep_slotsDiffer h
  obtain ⟨-, rfl⟩ := h
  simp only [step, runStep]
  split
  · exact .refused _
  split
  · exact .refused _
  split
  · exact .refused _
  split
  · exact .refused _
  · exact (hcore _).andThen fun ⟨ht, hw⟩ => .next (afterStep_slotsDiffer ht hw)

theorem portRead_slots (i : Nat) (s : State) (x : Vector Word 6) :
    portRead i { s with spsr := x } = portRead i s := rfl

theorem hostAct_slotsDiffer (h : SlotsDiffer y x s u) (a : HostAction) :
    Alike (SlotsDiffer y x) (hostAct a s) (hostAct a u) := by
  have hR := indistinct_slotsDiffer y x
  have hh : u.halted = s.halted := by rw [h.2]
  cases a with
  | readRegister i =>
    have hread : portRead i u = portRead i s := by rw [h.2, portRead_slots]
    simp only [hostAct, hread]
    exact .andThen_same _ fun _ => .next h
  | writeRegister i v => exact .whileRunning hh <| .andThen_same _ fun r => hR.writeReg h ..
  | readStatus =>
    have hread : statusRead u = statusRead s := by rw [h.2]; rfl
    simp only [hostAct, hread]
    exact .andThen_same _ fun _ => .next h
  | writeStatus v =>
    obtain ⟨hy, rfl⟩ := h
    exact .whileRunning hh <| .next ⟨hy, rfl⟩

/-- Settles O16: two states that differ in the slots alone stay so, with the slots they began with. -/
theorem savedStatusSlotsAreNeverReadNorWritten : Obligations.SavedStatusSlotsAreNeverReadNorWritten := by
  intro s t x
  have hs : SlotsDiffer s.spsr x s { s with spsr := x } := ⟨rfl, rfl⟩
  refine ⟨fun ht => ?_, fun a ht => ?_⟩
  · obtain ⟨_, hu, hy, rfl⟩ := (step_slotsDiffer hs).exists_next ht
    exact ⟨hy, hu⟩
  · obtain ⟨_, hu, hy, rfl⟩ := (hostAct_slotsDiffer hs a).exists_next ht
    exact ⟨hy, hu⟩

end Sys2Proof.Machine
end

section
/-! PROOF. The banking function by its three formulas (spec/10_state.md R22 to R26), and from them when two
modes see one physical word (R30). -/

namespace Sys2Proof.Machine

variable {i j : RegIdx} {m n : Mode}

theorem phys_of_lt_8 (h : i.toNat < 8) : phys i m = .lo ⟨i.toNat, h⟩ := by
  simp [phys, h]

theorem phys_of_lt_13 (h8 : 8 ≤ i.toNat) (h13 : i.toNat < 13) :
    phys i m = .mid ⟨2 * (i.toNat - 8) + (bank8 m).val, by have := (bank8 m).isLt; omega⟩ := by
  simp [phys, h13, Nat.not_lt.2 h8]

theorem phys_of_lt_15 (h13 : 13 ≤ i.toNat) (h15 : i.toNat < 15) :
    phys i m = .hi ⟨6 * (i.toNat - 13) + (bank13 m).val, by have := (bank13 m).isLt; omega⟩ := by
  have h8 : ¬ i.toNat < 8 := by omega
  simp [phys, h8, Nat.not_lt.2 h13, h15]

/-- r8 to r12: FIQ against all others (R23). -/
theorem bank8_eq_iff : bank8 m = bank8 n ↔ (m = .fiq ↔ n = .fiq) := by
  cases m <;> cases n <;> decide

/-- r13 and r14: one bank for each mode, User and System sharing (R24). -/
theorem bank13_eq_iff :
    bank13 m = bank13 n ↔ m = n ∨ (m ∈ [Mode.user, .system] ∧ n ∈ [Mode.user, .system]) := by
  cases m <;> cases n <;> decide

theorem sameBank_of_lt_8 {k : Nat} (h : k < 8) : SameBank k m n := .inl h

theorem sameBank_iff_of_lt_13 {k : Nat} (h8 : 8 ≤ k) (h13 : k < 13) :
    SameBank k m n ↔ (m = .fiq ↔ n = .fiq) := by
  simp [SameBank, h8, show ¬ k < 8 by omega, show k ≠ 15 by omega, show k ≤ 12 by omega,
    show ¬ 13 ≤ k by omega]

theorem sameBank_iff_of_lt_15 {k : Nat} (h13 : 13 ≤ k) (h15 : k < 15) :
    SameBank k m n ↔ m = n ∨ (m ∈ [Mode.user, .system] ∧ n ∈ [Mode.user, .system]) := by
  simp [SameBank, h13, show ¬ k < 8 by omega, show k ≠ 15 by omega, show ¬ k ≤ 12 by omega,
    show k ≤ 14 by omega]

/-- One register is one physical word in two modes exactly when they see the same bank of it. -/
theorem phys_eq_phys_iff_sameBank (i : RegIdx) (m n : Mode) :
    phys i m = phys i n ↔ SameBank i.toNat m n := by
  by_cases h8 : i.toNat < 8
  · simp [phys_of_lt_8 h8, sameBank_of_lt_8 h8]
  have h8 : 8 ≤ i.toNat := Nat.le_of_not_lt h8
  by_cases h13 : i.toNat < 13
  · rw [phys_of_lt_13 h8 h13, phys_of_lt_13 h8 h13, sameBank_iff_of_lt_13 h8 h13, ← bank8_eq_iff]
    simp [Fin.ext_iff]
  have h13 : 13 ≤ i.toNat := Nat.le_of_not_lt h13
  by_cases h15 : i.toNat < 15
  · rw [phys_of_lt_15 h13 h15, phys_of_lt_15 h13 h15, sameBank_iff_of_lt_15 h13 h15, ← bank13_eq_iff]
    simp [Fin.ext_iff]
  · have hpc : i.toNat = 15 := by omega
    obtain rfl : i = pc := BitVec.eq_of_toNat_eq hpc
    exact iff_of_true (by rw [phys_pc, phys_pc]) (.inr (.inl hpc))

/-- Settles O9: different registers never share a word, and one register does so by its bank formula. -/
theorem banksAliasExactlyWithinTheirClass : Obligations.BanksAliasExactlyWithinTheirClass := by
  intro i j m n
  by_cases hij : i = j
  · subst hij
    simp [phys_eq_phys_iff_sameBank]
  · simp [hij, phys_ne_of_ne hij]

/-- Settles O8: the formulas of `phys`, with the bank numbers of R24. -/
theorem unbankedAndSixBankRegistersFollowTheirFormulas :
    Obligations.UnbankedAndSixBankRegistersFollowTheirFormulas := by
  refine ⟨fun k m => ?_, phys_fifteen, fun m bank hmem => ?_⟩
  · have hk : (BitVec.ofNat 4 k.val).toNat = k.val := by simp; omega
    exact (phys_of_lt_8 (hk.symm ▸ k.isLt)).trans (congrArg PhysReg.lo (Fin.ext hk))
  · have hbank : (bank13 m).val = bank := by
      simp only [List.mem_cons, List.not_mem_nil, or_false, Prod.mk.injEq] at hmem
      rcases hmem with ⟨rfl, rfl⟩ | ⟨rfl, rfl⟩ | ⟨rfl, rfl⟩ | ⟨rfl, rfl⟩ | ⟨rfl, rfl⟩ | ⟨rfl, rfl⟩ |
        ⟨rfl, rfl⟩ <;> rfl
    subst hbank
    exact ⟨⟨_, phys_of_lt_15 (by decide) (by decide), by simp⟩,
      ⟨_, phys_of_lt_15 (by decide) (by decide), by simp⟩⟩

end Sys2Proof.Machine
end

section
/-! PROOF. The status word's flags and mode (spec/10_state.md R37 to R40) and the ports of the host (R46 to
R48). -/

namespace Sys2Proof.Machine

variable {s : State} {m : Mode} {i : Nat}

/-- Settles O11: the two writes change the bit they name and no other. -/
theorem statusFlagOperationsTouchOneBit : Obligations.StatusFlagOperationsTouchOneBit := by
  intro w b
  refine ⟨⟨rfl, rfl, rfl, rfl⟩, ?_, fun k hk => ?_, ?_, fun k hk => ?_⟩
  · rw [getLsbD_setFlagN, if_pos rfl]
  · rw [getLsbD_setFlagN, if_neg hk]
  · rw [getLsbD_setFlagZ, if_pos rfl]
  · rw [getLsbD_setFlagZ, if_neg hk]

/-- The seven modes with the patterns of R37. -/
def modePatterns : List (Mode × BitVec 5) :=
  [(.user, 0b10000#5), (.fiq, 0b10001#5), (.irq, 0b10010#5), (.supervisor, 0b10011#5), (.abort, 0b10111#5),
    (.undefined, 0b11011#5), (.system, 0b11111#5)]

theorem ofBits_eq_some_iff (b : BitVec 5) (m : Mode) : Mode.ofBits b = some m ↔ (m, b) ∈ modePatterns := by
  revert b
  cases m <;> decide

theorem ofBits_eq_none {b : BitVec 5} (h : b ∉ modePatterns.map Prod.snd) : Mode.ofBits b = none :=
  Option.eq_none_iff_forall_ne_some.2 fun m hm =>
    h (List.mem_map_of_mem (f := Prod.snd) ((ofBits_eq_some_iff b m).1 hm))

/-- Settles O12: the mode is read off the list of patterns, and off the list there is none. -/
theorem modeDecodesTheSevenPatterns : Obligations.ModeDecodesTheSevenPatterns :=
  ⟨fun w m => ofBits_eq_some_iff (w.extractLsb' 0 5) m,
    fun _ word hbits => currentMode_of_none word (ofBits_eq_none hbits)⟩

@[simp] theorem whileRunning_of_running {α : Type} (r : Result α) (h : s.halted = false) :
    whileRunning s r = r := by simp [whileRunning, h]

theorem portIndex_of_gt (h : 15 < i) : portIndex i = .fault (.invalidRegisterIndex i) := if_pos h

theorem portIndex_of_le (h : i ≤ 15) : portIndex i = .next (BitVec.ofNat 4 i) := if_neg (by omega)

/-- A read port passes an index up to 15 on to the register file (R46). -/
theorem portRead_of_le (hs : s.halted = false) (hi : i ≤ 15) :
    portRead i s = readReg none (BitVec.ofNat 4 i) s := by
  simp [portRead, hs, portIndex_of_le hi]

/-- A write port passes an index up to 15 on to the register file (R47). -/
theorem portWrite_of_le (hs : s.halted = false) (hi : i ≤ 15) (v : Word) :
    portWrite i v s = writeReg none (BitVec.ofNat 4 i) v s := by
  simp [portWrite, hs, portIndex_of_le hi]

theorem statusRead_of_running (hs : s.halted = false) : statusRead s = .next s.cpsr :=
  whileRunning_of_running _ hs

theorem statusWrite_of_running (hs : s.halted = false) (v : Word) : statusWrite v s = .next (s.setCpsr v) :=
  whileRunning_of_running _ hs

/-- Settles O13: the raw write is `setCpsr`, which moves nothing else. -/
theorem rawStatusWriteStoresAllBitsAndMovesNoData :
    Obligations.RawStatusWriteStoresAllBitsAndMovesNoData := by
  intro s v hs
  exact ⟨s.setCpsr v, statusWrite_of_running hs v, rfl, fun _ _ => rfl, ⟨rfl, rfl, fun _ => rfl⟩,
    statusRead_of_running hs⟩

/-- Settles O14: the index check comes before the register file is asked. -/
theorem portRejectsAnIndexAboveFifteenBeforeTheMode :
    Obligations.PortRejectsAnIndexAboveFifteenBeforeTheMode := by
  intro s i v hs hi
  constructor
  · simp [portRead, hs, portIndex_of_gt hi]
  · simp [portWrite, hs, portIndex_of_gt hi]

/-- A port read in mode `m` yields the word `m` selects. -/
theorem portRead_of_some (hs : s.halted = false) (hi : i ≤ 15) (hm : modeOf s.cpsr = some m) :
    portRead i s = .next (s.getPhys (phys (BitVec.ofNat 4 i) m)) := by
  rw [portRead_of_le hs hi, readReg_of_some _ _ hm]

/-- Settles O10: the write changes the word `phys i m`, which the mode `m2` reads exactly when it sees the same
bank. -/
theorem registerWritesAreIsolatedBetweenBanks : Obligations.RegisterWritesAreIsolatedBetweenBanks := by
  intro s i v u m m2 hs hi hm hm2
  let r : RegIdx := BitVec.ofNat 4 i
  have hr : r.toNat = i := by simp [r]; omega
  have hbank : phys r m2 = phys r m ↔ SameBank i m m2 := by
    rw [eq_comm, phys_eq_phys_iff_sameBank, hr]
  have hs1 : (s.setPhys (phys r m) v).halted = false := by simpa using hs
  have hread2 : portRead i ((s.setPhys (phys r m) v).setCpsr u) =
      .next ((s.setPhys (phys r m) v).getPhys (phys r m2)) := portRead_of_some hs1 hi hm2
  refine ⟨s.setPhys (phys r m) v, (s.setPhys (phys r m) v).setCpsr u, s.setCpsr u, ?_, ?_,
    statusWrite_of_running hs1 u, statusWrite_of_running hs u, fun hsame => ?_, fun hother => ?_⟩
  · rw [portWrite_of_le hs hi, writeReg_of_some _ _ _ hm]
  · rw [portRead_of_some hs1 hi (by simpa using hm), getPhys_setPhys_self]
  · rw [hread2, hbank.2 hsame, getPhys_setPhys_self]
  · refine ⟨s.getPhys (phys r m2), portRead_of_some hs hi hm2, ?_⟩
    rw [hread2, getPhys_setPhys_of_ne s v (mt hbank.1 hother)]

end Sys2Proof.Machine
end

section
/-! PROOF. Under an invalid mode field the first register access of an executed instruction ends the step
(spec/10_state.md R27, by decision D7; log 11). -/

namespace Sys2Proof.Machine

variable {s : State} {c : Cond}

theorem longMultiply_of_none (word : Word) (widen : Word → DWord) (sf : Bool) {rdHi rdLo : RegIdx}
    (rs rm : RegIdx) (h : passes c s.cpsr = true) (hm : modeOf s.cpsr = none) (hne : rdHi ≠ rdLo) :
    longMultiply word widen c sf rdHi rdLo rs rm s = .fault (.invalidMode (some word) (modeField s.cpsr)) := by
  simp [longMultiply, whenPasses_of_true _ h, hne, longProduct_of_none _ _ _ _ hm]

theorem longMultiplyAccumulate_of_none (word : Word) (widen : Word → DWord) (sf : Bool) {rdHi rdLo : RegIdx}
    (rs rm : RegIdx) (h : passes c s.cpsr = true) (hm : modeOf s.cpsr = none) (hne : rdHi ≠ rdLo) :
    longMultiplyAccumulate word widen c sf rdHi rdLo rs rm s =
      .fault (.invalidMode (some word) (modeField s.cpsr)) := by
  simp [longMultiplyAccumulate, whenPasses_of_true _ h, hne, longProduct_of_none _ _ _ _ hm]

/-- An instruction that begins with a register read, run under an invalid mode field. -/
theorem whenPasses_readReg_of_none (word : Option Word) (i : RegIdx) (k : Word → Result State)
    (h : passes c s.cpsr = true) (hm : modeOf s.cpsr = none) :
    whenPasses c s (andThen (readReg word i s) k) = .fault (.invalidMode word (modeField s.cpsr)) := by
  rw [whenPasses_of_true _ h, readReg_of_none _ _ hm, andThen_fault]

/-- Settles O15: the ports and the nine executed instructions all begin with a register access. -/
theorem invalidModeStopsEveryRegisterAccess : Obligations.InvalidModeStopsEveryRegisterAccess := by
  intro s hm
  refine ⟨fun i v hs hi => ⟨?_, ?_⟩, fun c off sf d n rs rm h => ⟨?_, fun hne => ?_⟩⟩
  · exact (portRead_of_le hs hi).trans (readReg_of_none _ _ hm)
  · exact (portWrite_of_le hs hi v).trans (writeReg_of_none _ _ _ hm)
  · simp only [List.forall_mem_cons, List.not_mem_nil, false_imp_iff, implies_true, and_true]
    refine ⟨?_, ?_, ?_, ?_, ?_⟩ <;> exact whenPasses_readReg_of_none _ _ _ h hm
  · simp only [List.forall_mem_cons, List.not_mem_nil, false_imp_iff, implies_true, and_true]
    exact ⟨longMultiply_of_none _ _ _ _ _ h hm hne, longMultiplyAccumulate_of_none _ _ _ _ _ h hm hne,
      longMultiply_of_none _ _ _ _ _ h hm hne, longMultiplyAccumulate_of_none _ _ _ _ _ h hm hne⟩

end Sys2Proof.Machine
end

section
/-! PROOF. No branch aligns its target (spec/10_state.md R34). -/

namespace Sys2Proof.Machine

/-- The offset is a multiple of 4, so adding it keeps the low two bits, across 2^32 too. -/
theorem extractLsb'_add_branchOffset (a : Word) (off : BitVec 24) :
    (a + branchOffset off).extractLsb' 0 2 = a.extractLsb' 0 2 := by
  apply BitVec.eq_of_toNat_eq
  simp only [branchOffset, BitVec.extractLsb'_toNat, BitVec.toNat_add, BitVec.toNat_mul,
    BitVec.ofNat_eq_ofNat, BitVec.toNat_ofNat, Nat.shiftRight_zero]
  omega

/-- The last word's address plus the offset of field 1 wraps to 0. -/
theorem lastWord_add_branchOffset_one {a : Word} {off : BitVec 24} (ha : a = 0xFFFFFFFC) (hoff : off = 1) :
    a + branchOffset off = 0 := by
  subst ha hoff
  decide

/-- Settles O24: B and BL add a multiple of 4 to r15, BX stores its target as it is. -/
theorem branchesForceNoAlignment : Obligations.BranchesForceNoAlignment := by
  intro c off rm s m h hm
  exact ⟨⟨_, execB_next off h hm, extractLsb'_add_branchOffset .., lastWord_add_branchOffset_one⟩,
    ⟨_, execBl_next off h hm, extractLsb'_add_branchOffset .., lastWord_add_branchOffset_one⟩,
    ⟨_, execBx_next rm h hm, rfl⟩⟩

end Sys2Proof.Machine
end

section
/-! PROOF. The reference sequencer (spec/20_memory.md R66 to R69): when it refuses, what a step on a fetched word
runs, the word it fetches after a load, and where r15 stands afterwards. -/

namespace Sys2Proof.Machine

variable {s t : State} {w : Word} {i : Instr}

/-! ### A step that cannot fetch, and one that can -/

theorem step_of_alternate (hh : s.halted = false) (ha : instructionState s.cpsr = .alternate) :
    step s = .refused .alternateState := by
  simp [step, runStep, hh, ha]

theorem step_of_misaligned (hh : s.halted = false) (hp : instructionState s.cpsr = .primary)
    (ha : s.pPc.extractLsb' 0 2 ≠ 0) : step s = .refused .misalignedFetch := by
  simp only [step, runStep, hh, Bool.false_eq_true, if_false, hp, if_pos ha]

theorem step_of_noWord (hh : s.halted = false) (hp : instructionState s.cpsr = .primary)
    (ha : s.pPc.extractLsb' 0 2 = 0) (hw : Memory.readWord s.imem s.pPc = none) :
    step s = .refused .noInstruction := by
  simp [step, runStep, hh, hp, ha, hw]

/-- Settles O40: one lemma for each check of R67, in its order. -/
theorem stepRefusesWhatItCannotFetch : Obligations.StepRefusesWhatItCannotFetch := fun _ =>
  ⟨step_of_halted, step_of_alternate, step_of_misaligned, step_of_noWord⟩

/-- Past the checks of R67 a step is the core's step on the word, then the advance of r15. -/
theorem step_of_fetches (h : Fetches s w) :
    step s = andThen (coreStep w s) fun r => .next (afterStep r) := by
  obtain ⟨hh, hp, ha, hw⟩ := h
  simp [step, runStep, hh, hp, ha, hw]

theorem coreStep_of_fetches (h : Fetches s w) (hd : decode w = .ok i) :
    coreStep w s = andThen (exec i s) fun t => .next (t, pcWritten i s) := by
  obtain ⟨hh, hp, -, -⟩ := h
  simp [coreStep, hh, hp, hd]

/-- A step on a fetched word is the sequenced outcome of the instruction it decodes to (R67, R68). -/
theorem step_eq_sequenced (h : Fetches s w) (hd : decode w = .ok i) : step s = sequenced i s := by
  rw [step_of_fetches h, coreStep_of_fetches h hd, sequenced]
  cases exec i s with
  | next t => rfl
  | fault f => rfl
  | refused r => rfl

/-- Settles O39: `sequenced` is the core's step and the advance, for each outcome of `exec`. -/
theorem stepRunsTheDecodedInstruction : Obligations.StepRunsTheDecodedInstruction :=
  fun _ _ _ => step_eq_sequenced

/-! ### A branch to itself -/

theorem setPhys_pc_pPc_self (s : State) : s.setPhys .pc s.pPc = s := rfl

theorem add_branchOffset_zero (a : Word) : a + branchOffset 0 = a := by simp [branchOffset]

theorem sequenced_of_pcWritten (hx : exec i s = .next t) (hw : pcWritten i s = true) :
    sequenced i s = .next t := by
  simp [sequenced, hx, hw]

/-- Settles O47: B with offset 0 writes r15 to r15, and a step that wrote r15 does not advance it. -/
theorem branchToItselfIsAFixedPoint : Obligations.BranchToItselfIsAFixedPoint := by
  intro s m h hm
  have hd : decode 0xEA000000 = .ok (.b .al 0) := by decide
  have hx : exec (.b .al 0) s = .next s := by
    have hb := execB_next (c := .al) 0 rfl hm
    rwa [add_branchOffset_zero, setPhys_pc_pPc_self] at hb
  rw [step_eq_sequenced h hd, sequenced_of_pcWritten hx rfl]

/-! ### A loaded word -/

theorem getLsbD_wordMask : ∀ k < 32, (0xFFFF_FFFC : Word).getLsbD k = decide (2 ≤ k) := by decide

/-- Clearing the low two bits of an address makes it a word address. -/
theorem extractLsb'_and_wordMask (a : Word) : (a &&& 0xFFFF_FFFC).extractLsb' 0 2 = 0 := by
  rw [extract_eq_iff]
  intro k hk
  rw [Nat.zero_add, BitVec.getLsbD_and, getLsbD_wordMask k (by omega), decide_eq_false (Nat.not_le_of_lt hk)]
  simp

/-- A word address keeps its value when its low two bits are cleared. -/
theorem and_wordMask_of_aligned {a : Word} (h : a.extractLsb' 0 2 = 0) : a &&& 0xFFFF_FFFC = a := by
  rw [extract_eq_iff] at h
  rw [and_mask_eq_iff]
  intro k hk
  rw [getLsbD_wordMask k hk]
  by_cases hlow : k < 2
  · have hbit : a.getLsbD k = false := by simpa using h k hlow
    rw [hbit, Bool.false_and]
  · rw [decide_eq_true (Nat.le_of_not_lt hlow), Bool.and_true]

/-- Putting the core in the state it is in changes no status bit. -/
theorem setInstructionState_instructionState (w : Word) :
    setInstructionState (instructionState w) w = w := by
  apply BitVec.eq_of_getLsbD_eq
  intro k _
  rw [getLsbD_setInstructionState]
  split
  next h5 =>
    subst h5
    unfold instructionState
    cases w.getLsbD 5 <;> rfl
  next => rfl

/-- After a load the next step fetches the loaded word, whatever stood in the way before (log 9). -/
theorem fetches_loadNext (s : State) (w : Word) : Fetches (s.loadNext w) w :=
  ⟨rfl, instructionState_setInstructionState .primary s.cpsr, extractLsb'_and_wordMask s.pPc,
    readWord_writeWord_self s.imem _ w⟩

/-- In a state that can fetch, a load changes the memory alone. -/
theorem loadNext_of_fetches {v : Word} (h : Fetches s v) (w : Word) :
    s.loadNext w = { s with imem := Memory.writeWord s.imem s.pPc w } := by
  obtain ⟨hh, hp, ha, -⟩ := h
  have hcpsr : setInstructionState .primary s.cpsr = s.cpsr := hp ▸ setInstructionState_instructionState s.cpsr
  simp only [State.loadNext, and_wordMask_of_aligned ha, hcpsr, ← hh]

theorem regFrame_imem (s : State) (m : Memory) : RegFrame [] s { s with imem := m } := fun _ _ => rfl

theorem decode_of_decodeTableWord {nbits n : Nat} (h : decodeTableWord nbits n = some i) :
    decode (tableWord nbits n) = .ok i := by
  cases hd : decode (tableWord nbits n) with
  | ok j => simp_all [decodeTableWord, Except.toOption]
  | error e => simp [decodeTableWord, hd, Except.toOption] at h

/-- Settles O50: the load makes the word the one fetched, and where the state could fetch it is a memory
write. -/
theorem loadedWordIsTheNextInstructionRun : Obligations.LoadedWordIsTheNextInstructionRun := by
  intro s nbits w
  refine ⟨fun i hi => step_eq_sequenced (fetches_loadNext s _) (decode_of_decodeTableWord hi), fun v hv => ?_⟩
  rw [State.withFetchWord, loadNext_of_fetches hv]
  exact ⟨regFrame_imem s _, rfl, rfl, rfl⟩

/-! ### r15 after a step -/

/-- A register write leaves r15 alone unless it names it. -/
theorem writeReg_pPc {word : Option Word} {r : RegIdx} {v : Word} (h : writeReg word r v s = .next t)
    (hr : r ≠ pc) : t.pPc = s.pPc := by
  obtain ⟨m, -, rfl⟩ := writeReg_eq_next.1 h
  exact setPhys_pPc_of_ne s v (mt phys_eq_pc.1 hr)

theorem finishShort_pPc {word : Option Word} {sf : Bool} {rd : RegIdx} {r : Word}
    (h : finishShort word sf rd r s = .next t) (hrd : rd ≠ pc) : t.pPc = s.pPc := by
  obtain ⟨_, hwrite, h⟩ := andThen_eq_next.1 h
  cases h
  exact (setCpsr_pPc ..).trans (writeReg_pPc hwrite hrd)

theorem finishLong_pPc {word : Option Word} {sf : Bool} {rdHi rdLo : RegIdx} {p : DWord}
    (h : finishLong word sf rdHi rdLo p s = .next t) (hne : rdHi ≠ pc ∧ rdLo ≠ pc) : t.pPc = s.pPc := by
  simp only [finishLong, andThen_eq_next] at h
  obtain ⟨_, hlo, _, hhi, h⟩ := h
  cases h
  exact (setCpsr_pPc ..).trans <| (writeReg_pPc hhi hne.1).trans (writeReg_pPc hlo hne.2)

theorem pPc_of_whenPasses {c : Cond} {body : Result State} (h : whenPasses c s body = .next t)
    (hb : body = .next t → t.pPc = s.pPc) : t.pPc = s.pPc :=
  (whenPasses_eq_next.1 h).elim (fun h => h.2 ▸ rfl) fun h => hb h.2

theorem longMultiply_pPc {word : Word} {widen : Word → DWord} {c : Cond} {sf : Bool}
    {rdHi rdLo rs rm : RegIdx} (h : longMultiply word widen c sf rdHi rdLo rs rm s = .next t)
    (hne : rdHi ≠ pc ∧ rdLo ≠ pc) : t.pPc = s.pPc := by
  refine pPc_of_whenPasses h fun h => ?_
  split at h
  · cases h
  · obtain ⟨_, -, h⟩ := andThen_eq_next.1 h
    exact finishLong_pPc h hne

theorem longMultiplyAccumulate_pPc {word : Word} {widen : Word → DWord} {c : Cond} {sf : Bool}
    {rdHi rdLo rs rm : RegIdx} (h : longMultiplyAccumulate word widen c sf rdHi rdLo rs rm s = .next t)
    (hne : rdHi ≠ pc ∧ rdLo ≠ pc) : t.pPc = s.pPc := by
  refine pPc_of_whenPasses h fun h => ?_
  split at h
  · cases h
  · simp only [andThen_eq_next] at h
    obtain ⟨_, -, _, -, _, -, h⟩ := h
    exact finishLong_pPc h hne

/-- Every instruction stands behind the condition gate (R126). -/
theorem exec_of_condition_fails (h : passes i.cond s.cpsr = false) : exec i s = .next s := by
  cases i <;> exact whenPasses_of_false _ h

/-- An instruction that names no r15 among its destinations leaves it alone. -/
theorem exec_pPc_of_not_namesPc (h : exec i s = .next t) (hn : namesPcAsDestination i = false) :
    t.pPc = s.pPc := by
  cases i
  case b | bl | bx => cases hn
  case mul c sf rd n rs rm =>
    refine pPc_of_whenPasses h fun h => ?_
    simp only [andThen_eq_next] at h
    obtain ⟨_, -, _, -, h⟩ := h
    exact finishShort_pPc h (beq_eq_false_iff_ne.1 hn)
  case mla c sf rd n rs rm =>
    refine pPc_of_whenPasses h fun h => ?_
    simp only [andThen_eq_next] at h
    obtain ⟨_, -, _, -, _, -, h⟩ := h
    exact finishShort_pPc h (beq_eq_false_iff_ne.1 hn)
  case umull | smull => exact longMultiply_pPc h (by simpa [namesPcAsDestination] using hn)
  case umlal | smlal => exact longMultiplyAccumulate_pPc h (by simpa [namesPcAsDestination] using hn)
  all_goals rw [(unsupported_eq_next.1 h).2]

/-- `pc_written` says what it promises: where it is false, `exec` has left r15 alone (R127). -/
theorem exec_pPc_of_not_pcWritten (h : exec i s = .next t) (hw : pcWritten i s = false) : t.pPc = s.pPc := by
  cases hp : passes i.cond s.cpsr with
  | false =>
    cases (exec_of_condition_fails hp).symm.trans h
    rfl
  | true => exact exec_pPc_of_not_namesPc h (by simpa [pcWritten, hp] using hw)

/-- A step that did not write r15 is the instruction's own effect and r15 plus 4. -/
theorem sequenced_of_not_pcWritten (hw : pcWritten i s = false) (h : sequenced i s = .next t) :
    ∃ u, exec i s = .next u ∧ t = { u with pPc := u.pPc + 4 } := by
  unfold sequenced at h
  split at h
  next u hu => exact ⟨u, hu, by simpa [hw, eq_comm] using h⟩
  next => cases h
  next => cases h

/-- The instructions of R127: the branches, and a multiply with a destination field 15. -/
theorem namesPcAsDestination_iff : namesPcAsDestination i = true ↔
    ((∃ c off, i = .b c off) ∨ (∃ c off, i = .bl c off) ∨ (∃ c rm, i = .bx c rm) ∨
      (∃ c sf n rs rm, i = .mul c sf 15 n rs rm) ∨ (∃ c sf n rs rm, i = .mla c sf 15 n rs rm) ∨
      (∃ c sf d n rs rm, (d = 15 ∨ n = 15) ∧ i ∈ [Instr.umull c sf d n rs rm,
        .umlal c sf d n rs rm, .smull c sf d n rs rm, .smlal c sf d n rs rm])) := by
  constructor
  · intro h
    cases i
    case b c off => exact .inl ⟨c, off, rfl⟩
    case bl c off => exact .inr <| .inl ⟨c, off, rfl⟩
    case bx c rm => exact .inr <| .inr <| .inl ⟨c, rm, rfl⟩
    case mul c sf d n rs rm =>
      obtain rfl := eq_of_beq h
      exact .inr <| .inr <| .inr <| .inl ⟨c, sf, n, rs, rm, rfl⟩
    case mla c sf d n rs rm =>
      obtain rfl := eq_of_beq h
      exact .inr <| .inr <| .inr <| .inr <| .inl ⟨c, sf, n, rs, rm, rfl⟩
    case umull c sf d n rs rm | umlal c sf d n rs rm | smull c sf d n rs rm | smlal c sf d n rs rm =>
      exact .inr <| .inr <| .inr <| .inr <| .inr
        ⟨c, sf, d, n, rs, rm, by simpa [namesPcAsDestination, pc] using h, by simp⟩
    all_goals cases h
  · rintro (⟨c, off, rfl⟩ | ⟨c, off, rfl⟩ | ⟨c, rm, rfl⟩ | ⟨c, sf, n, rs, rm, rfl⟩ | ⟨c, sf, n, rs, rm, rfl⟩ |
      ⟨c, sf, d, n, rs, rm, hdest, hi⟩)
    iterate 5 rfl
    simp only [List.mem_cons, List.not_mem_nil, or_false] at hi
    rcases hi with rfl | rfl | rfl | rfl <;> simpa [namesPcAsDestination, pc] using hdest

/-- Settles O48: the first clause is `exec_pPc_of_not_pcWritten` before the advance, the second lists what
`namesPcAsDestination` names. -/
theorem pcAdvancesByFourUnlessWritten : Obligations.PcAdvancesByFourUnlessWritten := by
  refine ⟨fun s t w i hf hd hw hstep => ?_, fun i s => ?_⟩
  · rw [step_eq_sequenced hf hd] at hstep
    obtain ⟨u, hu, rfl⟩ := sequenced_of_not_pcWritten hw hstep
    exact congrArg (· + 4) (exec_pPc_of_not_pcWritten hu hw)
  · rw [pcWritten, Bool.and_eq_true, namesPcAsDestination_iff]

end Sys2Proof.Machine
end

section
/-! PROOF. The decoder as a search of its table (spec/30_encoding.md R82): which pattern takes a word, which words
none takes (R104), and which patterns meet (R100). -/

namespace Sys2Proof

variable {w : Word} {p : Pattern}

/-! ### The search -/

@[simp] theorem Pattern.matches_iff : p.matches w = true ↔ w &&& p.mask = p.value := beq_iff_eq

@[simp] theorem Pattern.matches_eq_false_iff : p.matches w = false ↔ w &&& p.mask ≠ p.value :=
  beq_eq_false_iff_ne

/-- The search rejects a word that no pattern takes. -/
theorem classify_eq_none_iff : classify w = none ↔ ∀ p ∈ patterns, w &&& p.mask ≠ p.value := by
  simp [classify]

/-- The search answers with the pattern at some place of the table, where every earlier one fails. -/
theorem classify_eq_some_iff {c : Category} :
    classify w = some c ↔
      ∃ (k : Nat) (p : Pattern), patterns[k]? = some p ∧ w &&& p.mask = p.value ∧ p.category = c ∧
        ∀ (j : Nat) (q : Pattern), j < k → patterns[j]? = some q → w &&& q.mask ≠ q.value := by
  simp only [classify, Option.map_eq_some_iff, List.find?_eq_some_iff_getElem, Pattern.matches_iff,
    Bool.not_eq_true', Pattern.matches_eq_false_iff]
  constructor
  · rintro ⟨p, ⟨hp, k, hk, rfl, hfirst⟩, rfl⟩
    refine ⟨k, _, List.getElem?_eq_getElem hk, hp, rfl, fun j q hj hq => ?_⟩
    obtain ⟨_, rfl⟩ := List.getElem?_eq_some_iff.1 hq
    exact hfirst j hj
  · rintro ⟨k, p, hk, hp, rfl, hfirst⟩
    obtain ⟨hlt, rfl⟩ := List.getElem?_eq_some_iff.1 hk
    exact ⟨_, ⟨hp, k, hlt, rfl, fun j hj => hfirst j _ hj (List.getElem?_eq_getElem _)⟩, rfl⟩

theorem decode_eq_error_iff : decode w = .error (.unrecognizedInstruction w) ↔ classify w = none := by
  unfold decode
  cases classify w <;> simp

theorem exists_decode_eq_ok_iff : (∃ i, decode w = .ok i) ↔ classify w ≠ none := by
  unfold decode
  cases classify w <;> simp

/-- Settles O4: the table is R82's by evaluation, and `classify` and `decode` are the search of it. -/
theorem decoderTakesTheFirstMatchingPattern : Obligations.DecoderTakesTheFirstMatchingPattern :=
  ⟨rfl, rfl, fun _ => ⟨fun _ => classify_eq_some_iff, decode_eq_error_iff.trans classify_eq_none_iff⟩⟩

/-! ### The words no pattern takes -/

/-- A masked comparison of one field is a masked comparison of the field's value. -/
theorem and_place_eq_place_iff {n lo : Nat} (h : lo + n ≤ 32) (w : Word) (m v : BitVec n) :
    w &&& place lo m = place lo v ↔ w.extractLsb' lo n &&& m = v := by
  rw [and_mask_eq_iff]
  constructor
  · intro hw
    refine BitVec.eq_of_getLsbD_eq fun i hi => ?_
    have hlt : lo + i < 32 := by omega
    simpa [getElem_place, hi, hlt] using hw (lo + i) hlt
  · rintro rfl i hi
    by_cases hlo : lo ≤ i
    · by_cases hin : i - lo < n
      · simp [getElem_place, hi, hlo, hin]
      · simp [getElem_place, hi, hlo, hin, BitVec.getLsbD_of_ge m _ (Nat.le_of_not_lt hin)]
    · simp [getElem_place, hi, hlo]

/-- Every pattern disagrees with each of the three codes in a bit that it tests among 27 to 24. -/
theorem patterns_exclude_coprocessor :
    ∀ p ∈ patterns, ∀ b ∈ [0b1100#4, 0b1101#4, 0b1110#4],
      b &&& p.mask.extractLsb' 24 4 ≠ p.value.extractLsb' 24 4 := by decide

/-- For every other code a pattern that tests bits 27 to 20 alone takes the word. -/
theorem exists_pattern_of_not_coprocessor :
    ∀ b : BitVec 8, b.extractLsb' 4 4 ∉ [0b1100#4, 0b1101#4, 0b1110#4] →
      ∃ p ∈ patterns, p.mask = place 20 (p.mask.extractLsb' 20 8) ∧
        p.value = place 20 (p.value.extractLsb' 20 8) ∧
        b &&& p.mask.extractLsb' 20 8 = p.value.extractLsb' 20 8 := by decide

theorem classify_eq_none_iff_coprocessor :
    classify w = none ↔ w.extractLsb' 24 4 ∈ [0b1100#4, 0b1101#4, 0b1110#4] := by
  rw [classify_eq_none_iff]
  constructor
  · contrapose!
    intro hb
    have hhead : (w.extractLsb' 20 8).extractLsb' 4 4 = w.extractLsb' 24 4 := by
      ext i hi
      simp [← Nat.add_assoc, show 4 + i < 8 by omega]
    obtain ⟨p, hp, hmask, hvalue, hfield⟩ := exists_pattern_of_not_coprocessor _ (hhead ▸ hb)
    refine ⟨p, hp, ?_⟩
    rw [hmask, hvalue, and_place_eq_place_iff (by decide)]
    exact hfield
  · intro hb p hp hw
    refine patterns_exclude_coprocessor p hp _ hb ?_
    rw [← hw, BitVec.extractLsb'_and]

/-- Settles O3: the decoder's outcome is whether the search finds a pattern. -/
theorem unrecognizedWordsAreTheCoprocessorSpace : Obligations.UnrecognizedWordsAreTheCoprocessorSpace :=
  fun _ => ⟨decode_eq_error_iff.trans classify_eq_none_iff_coprocessor,
    exists_decode_eq_ok_iff.trans (not_congr classify_eq_none_iff_coprocessor)⟩

/-! ### The words two patterns take -/

/-- Joining `v` to `u` keeps the masked value where every bit of `v` under the mask is one of `u`. -/
theorem or_and_eq_left {m n u v : Word} (hu : u &&& m = u) (h : v &&& m = u &&& n) : (u ||| v) &&& m = u := by
  rw [BitVec.and_or_distrib_right, hu, h]
  ext i hi
  simpa using fun hu _ => hu

/-- Two masked comparisons whose values lie within their masks have a common word exactly when the values agree
on the bits that both test; their union is then one. -/
theorem exists_and_mask_eq_iff {m n u v : Word} (hu : u &&& m = u) (hv : v &&& n = v) :
    (∃ w : Word, w &&& m = u ∧ w &&& n = v) ↔ u &&& n = v &&& m := by
  constructor
  · rintro ⟨w, rfl, rfl⟩
    ac_rfl
  · intro h
    refine ⟨u ||| v, or_and_eq_left hu h.symm, ?_⟩
    rw [BitVec.or_comm]
    exact or_and_eq_left hv h

theorem patterns_value_within_mask : ∀ p ∈ patterns, p.value &&& p.mask = p.value := by decide

/-- The pairs of R100, which numbers from 1, are those whose values agree on the bits that both patterns test. -/
theorem patterns_agree_iff : ∀ j k : Fin patterns.length, j < k →
    (patterns[j].value &&& patterns[k].mask = patterns[k].value &&& patterns[j].mask ↔
      (j.val + 1, k.val + 1) ∈ [(4, 14), (4, 17), (9, 17), (10, 17), (11, 17), (12, 14), (12, 17), (13, 17),
        (14, 16), (14, 17), (15, 16), (15, 17), (16, 17)]) := by decide

/-- Settles O6: a common word exists where the values agree, and the table says for which pairs they do. -/
theorem patternOverlapsAreTheThirteenPairs : Obligations.PatternOverlapsAreTheThirteenPairs := by
  intro j k p q hjk hp hq
  obtain ⟨hj, rfl⟩ := List.getElem?_eq_some_iff.1 hp
  obtain ⟨hk, rfl⟩ := List.getElem?_eq_some_iff.1 hq
  rw [exists_and_mask_eq_iff (patterns_value_within_mask _ (List.getElem_mem hj))
    (patterns_value_within_mask _ (List.getElem_mem hk))]
  exact patterns_agree_iff ⟨j, hj⟩ ⟨k, hk⟩ hjk

end Sys2Proof
end

section
/-! PROOF. The branch offset as a signed number (spec/30_encoding.md R106). -/

namespace Sys2Proof.Machine

/-- Four times a signed 24-bit field fits in a word, so the multiplication does not wrap. -/
theorem toInt_branchOffset (off : BitVec 24) : (branchOffset off).toInt = 4 * off.toInt := by
  have hlo := BitVec.le_toInt off
  have hhi := BitVec.toInt_lt (x := off)
  rw [branchOffset, BitVec.toInt_mul, BitVec.toInt_signExtend_of_le (by decide)]
  simp [Int.bmod_def]
  omega

/-- R106's second form: the two zero bits are the factor 4 before the sign extension. -/
theorem branchOffset_eq_signExtend_append (off : BitVec 24) :
    branchOffset off = (off ++ 0b00#2).signExtend 32 := by
  apply BitVec.eq_of_toInt_eq
  rw [toInt_branchOffset, BitVec.toInt_signExtend_of_le (by decide), BitVec.toInt_append_zero]
  omega

/-- Settles O25: the bounds are those of a signed 24-bit field, times 4. -/
theorem branchOffsetIsFourTimesTheSignedField : Obligations.BranchOffsetIsFourTimesTheSignedField := by
  refine ⟨fun off => ?_, by decide, by decide⟩
  have hlo := BitVec.le_toInt off
  have hhi := BitVec.toInt_lt (x := off)
  refine ⟨toInt_branchOffset off, branchOffset_eq_signExtend_append off, ?_, ?_⟩ <;>
    rw [toInt_branchOffset] <;> omega

end Sys2Proof.Machine
end

section
/-! PROOF. The conditions (spec/40_step_and_condition.md R124, R125), an instruction whose condition fails (R126),
and the frame of every step (R134). -/

namespace Sys2Proof.Machine

variable {s t : State} {qs : List PhysReg} {bits : List Nat}

/-! ### The conditions -/

/-- Settles O18: the table of `evaluates`, with `n ≠ v` written as a decision in rows 11 and 13. -/
theorem conditionTruthTable : Obligations.ConditionTruthTable := by
  intro n z cf v
  have hne : (n != v) = decide (n ≠ v) := (decide_not ..).symm
  exact ⟨rfl, rfl, rfl, rfl, rfl, rfl, rfl, rfl, rfl, rfl, rfl, hne, rfl, congrArg (z || ·) hne, rfl, rfl⟩

/-- Settles O19: six pairs are negations as R124 writes them, HI/LS and GT/LE by De Morgan. -/
theorem conditionCodesComeInNegatedPairs : Obligations.ConditionCodesComeInNegatedPairs := by
  intro k n z cf v
  have hls : (!cf || z) = !(cf && !z) := by rw [Bool.not_and, Bool.not_not]
  have hle : (z || n != v) = !(!z && n == v) := by rw [Bool.not_and, Bool.not_not, bne]
  match k with
  | 0 | 1 | 2 | 3 | 5 | 7 => rfl
  | 4 => exact hls
  | 6 => exact hle

/-- Settles O20: the gate answers `next s`, and `pc_written` is false where the condition fails. -/
theorem failedConditionChangesNothing : Obligations.FailedConditionChangesNothing := by
  intro i s h
  have hp : passes i.cond s.cpsr = false := h
  exact ⟨exec_of_condition_fails hp, by rw [pcWritten, hp, Bool.false_and]⟩

/-! ### A step that answers next -/

/-- The four refusals of R67 are the only answers of a step that cannot fetch. -/
theorem fetches_of_step_eq_next (h : step s = .next t) : ∃ w, Fetches s w := by
  unfold step runStep at h
  split at h
  · cases h
  next hh =>
  split at h
  · cases h
  next hp =>
  split at h
  · cases h
  next ha =>
  split at h
  · cases h
  next w hw => exact ⟨w, Bool.eq_false_of_not_eq_true hh, hp, of_not_not ha, hw⟩

theorem coreStep_of_decode_error {w v : Word} (h : Fetches s w)
    (hd : decode w = .error (.unrecognizedInstruction v)) :
    coreStep w s = .fault (.unrecognizedInstruction v) := by
  obtain ⟨hh, hp, -, -⟩ := h
  simp [coreStep, hh, hp, hd]

/-- A step that answers next, read backwards: it fetched a word, the word decoded, and the instruction ran (R120,
spec/20_memory.md R67). -/
theorem step_eq_next_iff :
    step s = .next t ↔ ∃ w i, Fetches s w ∧ decode w = .ok i ∧ sequenced i s = .next t := by
  refine ⟨fun h => ?_, fun ⟨w, i, hf, hd, h⟩ => step_eq_sequenced hf hd ▸ h⟩
  obtain ⟨w, hf⟩ := fetches_of_step_eq_next h
  cases hd : decode w with
  | error e =>
    obtain ⟨v⟩ := e
    rw [step_of_fetches hf, coreStep_of_decode_error hf hd, andThen_fault] at h
    cases h
  | ok i => exact ⟨w, i, hf, hd, step_eq_sequenced hf hd ▸ h⟩

/-- A sequenced instruction that answers next did so itself, and r15 then stands where `afterStep` puts it. -/
theorem sequenced_eq_next {i : Instr} (h : sequenced i s = .next t) :
    ∃ u, exec i s = .next u ∧ t = afterStep (u, pcWritten i s) := by
  unfold sequenced at h
  split at h
  next u hu => exact ⟨u, hu, (Host.Outcome.next.inj h).symm⟩
  next => cases h
  next => cases h

/-! ### The frame of a step -/

theorem Frame.refl (qs : List PhysReg) (bits : List Nat) (s : State) : Frame qs bits s s :=
  ⟨fun _ _ => rfl, fun _ _ => rfl, rfl, rfl, fun _ => rfl⟩

/-- One more physical word written is one more word the frame leaves out. -/
theorem Frame.setPhys (h : Frame qs bits s t) (p : PhysReg) (v : Word) :
    Frame (p :: qs) bits s (t.setPhys p v) := by
  obtain ⟨hreg, hcpsr, hspsr, hhalted, hmem⟩ := h
  refine ⟨fun q hq => ?_, by simpa [CpsrFrame] using hcpsr, by simpa using hspsr, by simpa using hhalted,
    by simpa using hmem⟩
  rw [List.mem_cons, not_or] at hq
  rw [getPhys_setPhys_of_ne t v hq.1, hreg q hq.2]

/-- Another status word is within the frame when it keeps the bits that the frame keeps. -/
theorem Frame.setCpsr (h : Frame qs bits s t) {w : Word} (hw : ∀ k ∉ bits, w.getLsbD k = s.cpsr.getLsbD k) :
    Frame qs bits s (t.setCpsr w) := by
  obtain ⟨hreg, -, hrest⟩ := h
  exact ⟨hreg, hw, hrest⟩

/-- The advance of the sequencer can change r15 and nothing else (spec/20_memory.md R68). -/
theorem Frame.afterStep {r : State × Bool} (h : Frame qs bits s r.1) :
    Frame (.pc :: qs) bits s (afterStep r) := by
  obtain ⟨hreg, hother⟩ := h
  unfold Machine.afterStep
  split
  · exact ⟨fun q hq => hreg q fun hmem => hq (List.mem_cons_of_mem _ hmem), hother⟩
  · exact Frame.setPhys ⟨hreg, hother⟩ .pc _

/-- The physical words the current mode selects (spec/10_state.md R26); under an invalid mode field none (R27). -/
def Selected (s : State) (q : PhysReg) : Prop := ∃ m i, modeOf s.cpsr = some m ∧ q = phys i m

/-- An effect stays within N, Z, the instruction-set bit and words that the mode selects. -/
theorem Effect.frame (h : Effect s t) : ∃ qs, Frame qs [31, 30, 5] s t ∧ ∀ q ∈ qs, Selected s q := by
  obtain rfl | ⟨m, a, b, va, vb, w, hm, rfl, hw⟩ := h
  · exact ⟨[], .refl .., by simp⟩
  have hbits : ∀ k ∉ [31, 30, 5], w.getLsbD k = s.cpsr.getLsbD k := by
    intro k hk
    simp only [List.mem_cons, List.not_mem_nil, or_false, not_or] at hk
    obtain ⟨h31, h30, h5⟩ := hk
    obtain ⟨sf, n, z, rfl⟩ | ⟨rfl, -⟩ := hw
    · simp [getLsbD_multiplyFlags, h31, h30]
    · simp [getLsbD_setInstructionState, h5]
  refine ⟨[phys b m, phys a m], (((Frame.refl [] _ s).setPhys _ va).setPhys _ vb).setCpsr hbits, ?_⟩
  simp only [List.forall_mem_cons, List.not_mem_nil, false_imp_iff, implies_true, and_true]
  exact ⟨⟨m, b, hm, rfl⟩, ⟨m, a, hm, rfl⟩⟩

/-- Every step stays within N, Z, the instruction-set bit, r15 and words that the mode selects (R134). -/
theorem step_frame (h : step s = .next t) :
    ∃ qs, Frame (.pc :: qs) [31, 30, 5] s t ∧ ∀ q ∈ qs, Selected s q := by
  obtain ⟨w, i, -, -, hi⟩ := step_eq_next_iff.1 h
  obtain ⟨u, hu, rfl⟩ := sequenced_eq_next hi
  obtain ⟨qs, hframe, hqs⟩ := (exec_effect hu).frame
  exact ⟨qs, Frame.afterStep hframe, hqs⟩

/-- Settles O42: a word that changed is not one the frame of the step keeps. -/
theorem stepLeavesAllOtherStateUnchanged : Obligations.StepLeavesAllOtherStateUnchanged := by
  intro s t h
  obtain ⟨qs, ⟨hreg, hcpsr, hrest⟩, hqs⟩ := step_frame h
  refine ⟨hcpsr, hrest, fun q hq => ?_⟩
  have hmem : q ∈ PhysReg.pc :: qs := by_contra fun hout => hq (hreg q hout)
  exact (List.mem_cons.1 hmem).imp_right (hqs q)

end Sys2Proof.Machine
end

section
/-! PROOF. What B, BL and BX change, and nothing beside it (spec/41_branch.md R151, R152, R154); from these, the
return by BX r14 after a BL (R153, R156). -/

namespace Sys2Proof.Machine

variable {s t : State} {i : Instr} {m : Mode} {qs rs : List PhysReg} {bits : List Nat}

/-- The offset as the statements write it, a signed number (spec/30_encoding.md R106). -/
theorem branchOffset_eq_ofInt (off : BitVec 24) : branchOffset off = BitVec.ofInt 32 (4 * off.toInt) := by
  rw [← toInt_branchOffset, BitVec.ofInt_toInt]

theorem pcWritten_of_passes (hp : passes i.cond s.cpsr = true) (hn : namesPcAsDestination i = true) :
    pcWritten i s = true := by
  rw [pcWritten, hp, hn, Bool.and_self]

/-- A frame that leaves out more words says less. -/
theorem Frame.mono (h : Frame qs bits s t) (hsub : qs ⊆ rs) : Frame rs bits s t := by
  obtain ⟨hreg, hother⟩ := h
  exact ⟨fun q hq => hreg q fun hmem => hq (hsub hmem), hother⟩

/-- A frame that leaves out no bit of the mode field keeps the mode (spec/10_state.md R37). -/
theorem Frame.modeOf_eq (h : Frame qs bits s t) (hbits : ∀ k ∈ bits, 5 ≤ k) :
    modeOf t.cpsr = modeOf s.cpsr := by
  obtain ⟨-, hcpsr, -⟩ := h
  have hfield : modeField t.cpsr = modeField s.cpsr :=
    modeField_congr fun k hk => hcpsr k fun hmem => Nat.not_le_of_lt hk (hbits k hmem)
  exact congrArg Mode.ofBits hfield

/-- Putting the core in either instruction-set state writes bit 5 alone (spec/10_state.md R36). -/
theorem frame_setInstructionState (s : State) (k : InstrSet) :
    Frame [] [5] s (s.setCpsr (setInstructionState k s.cpsr)) := by
  refine (Frame.refl [] [5] s).setCpsr fun j hj => ?_
  rw [getLsbD_setInstructionState, if_neg (mt List.mem_singleton.2 hj)]

/-- Settles O21: B writes r15 to the next state and nothing else. -/
theorem branchAddsTheSignedOffset : Obligations.BranchAddsTheSignedOffset := by
  intro c off s m h hm
  refine ⟨_, execB_next off h hm, ?_, pcWritten_of_passes h rfl, (Frame.refl [] [] s).setPhys .pc _⟩
  rw [setPhys_pc_pPc, branchOffset_eq_ofInt]

/-- Settles O22: the link value goes to r14, which the write of r15 after it does not touch. -/
theorem branchLinkSavesTheReturnAddress : Obligations.BranchLinkSavesTheReturnAddress := by
  intro c off s m h hm
  have hlr : phys 14 m ≠ .pc := mt phys_eq_pc.1 (by decide)
  refine ⟨_, execBl_next off h hm, ?_, ?_, pcWritten_of_passes h rfl, ?_⟩
  · rw [getPhys_setPhys_of_ne _ _ hlr]
    exact getPhys_setPhys_self ..
  · rw [setPhys_pc_pPc, branchOffset_eq_ofInt]
  · have hframe := ((Frame.refl [] [] s).setPhys (phys lr m) (s.pPc + 4)).setPhys .pc
      (s.pPc + branchOffset off)
    exact hframe.mono (List.Perm.swap ..).subset

/-- Settles O23: BX writes bit 5 of the status word, then r15, from one read of the target. -/
theorem branchExchangeTakesStateFromBitZero : Obligations.BranchExchangeTakesStateFromBitZero := by
  intro c rm s m h hm
  refine ⟨_, execBx_next rm h hm, setPhys_pc_pPc .., ?_, pcWritten_of_passes h rfl,
    (frame_setInstructionState s _).setPhys .pc _⟩
  rw [setPhys_cpsr, setCpsr_cpsr, instructionState_setInstructionState]

/-- The link value is even when the address of the BL is. -/
theorem getLsbD_zero_add_four (a : Word) : (a + 4).getLsbD 0 = a.getLsbD 0 := by
  rw [BitVec.getLsbD_add (by decide)]
  simp

/-- Settles O26: BL leaves the return address in r14 and the status word alone, so that BX r14 reads it in the
same mode and takes the state from its bit 0. -/
theorem branchLinkThenExchangeReturns : Obligations.BranchLinkThenExchangeReturns := by
  intro off s m hm
  obtain ⟨t, hbl, hlink, -, -, hframe⟩ := branchLinkSavesTheReturnAddress .al off s m rfl hm
  have hmt : modeOf t.cpsr = some m := (hframe.modeOf_eq (by simp)).trans hm
  obtain ⟨u, hbx, hpc, hstate, -, hframe'⟩ := branchExchangeTakesStateFromBitZero .al 14 t m rfl hmt
  refine ⟨t, u, hbl, hbx, hpc.trans hlink, (hframe'.modeOf_eq (by simp)).trans hmt, fun heven => ?_⟩
  rw [hstate, hlink, getLsbD_zero_add_four, heven]
  rfl

end Sys2Proof.Machine
end

section
/-! PROOF. Arithmetic of 64-bit values and their halves (spec/00_scope.md R9): a value is its two halves joined,
a product of two widened words does not wrap, and the signed product differs from the unsigned one in the high half
alone (spec/42_multiply.md R186). -/

namespace Sys2Proof.Machine

/-! ### Halves -/

@[simp] theorem join64_hi32_lo32 (p : DWord) : join64 (hi32 p) (lo32 p) = p :=
  (BitVec.extractLsb'_append_extractLsb'_eq_extractLsb' rfl).trans BitVec.extractLsb'_eq_self

theorem toNat_join64 (hi lo : Word) : (join64 hi lo).toNat = hi.toNat * 2 ^ 32 + lo.toNat := by
  rw [join64, BitVec.toNat_append, ← Nat.shiftLeft_add_eq_or_of_lt lo.isLt, Nat.shiftLeft_eq]

theorem toNat_hi32_lo32 (p : DWord) : (hi32 p).toNat * 2 ^ 32 + (lo32 p).toNat = p.toNat := by
  rw [← toNat_join64, join64_hi32_lo32]

/-- N of a 64-bit result is the top bit of its high half (R180). -/
theorem negative64_eq (p : DWord) : negative64 p = (hi32 p).getLsbD 31 := by
  simp [negative64, hi32]

/-- Z of a 64-bit result is that both halves are zero (R180). -/
theorem zero64_eq (p : DWord) : zero64 p = (hi32 p == 0 && lo32 p == 0) := by
  rw [Bool.eq_iff_iff, zero64, Bool.and_eq_true, beq_iff_eq, beq_iff_eq, beq_iff_eq]
  constructor
  · rintro rfl
    exact ⟨rfl, rfl⟩
  · rintro ⟨hhi, hlo⟩
    rw [← join64_hi32_lo32 p, hhi, hlo]
    rfl

/-! ### Products -/

/-- The product of two 32-bit numbers fits in 64 bits (R173). -/
theorem toNat_zext64_mul (a b : Word) : (zext64 a * zext64 b).toNat = a.toNat * b.toNat := by
  have hlt : a.toNat * b.toNat < 2 ^ 32 * 2 ^ 32 := Nat.mul_lt_mul'' a.isLt b.isLt
  have hwiden : ∀ x : Word, (zext64 x).toNat = x.toNat := fun x =>
    BitVec.toNat_setWidth_of_le (by decide)
  rw [BitVec.toNat_mul, hwiden, hwiden]
  exact Nat.mod_eq_of_lt hlt

/-- The signed product as the pattern of an integer: sign extension is by definition such a pattern. -/
theorem sext64_mul_eq_ofInt (a b : Word) : sext64 a * sext64 b = BitVec.ofInt 64 (a.toInt * b.toInt) :=
  (BitVec.ofInt_mul ..).symm

theorem zext64_mul_eq_ofInt (a b : Word) : zext64 a * zext64 b = BitVec.ofInt 64 (a.toNat * b.toNat : ℕ) := by
  rw [BitVec.ofInt_natCast, ← toNat_zext64_mul, BitVec.ofNat_toNat, BitVec.setWidth_eq]

/-- The signed product of two 32-bit numbers fits in 64 bits (R175). -/
theorem toInt_sext64_mul (a b : Word) : (sext64 a * sext64 b).toInt = a.toInt * b.toInt := by
  have hlo : -2 ^ 62 ≤ a.toInt * b.toInt := BitVec.le_toInt_mul_toInt
  have hhi : a.toInt * b.toInt ≤ 2 ^ 62 := BitVec.toInt_mul_toInt_le
  rw [sext64_mul_eq_ofInt, BitVec.toInt_ofInt_eq_self (by decide) (by omega) (by omega)]

/-! ### The two products side by side -/

theorem lo32_mul (p q : DWord) : lo32 (p * q) = lo32 p * lo32 q := by
  apply BitVec.eq_of_toNat_eq
  simp [lo32, BitVec.toNat_mul, Nat.mul_mod]

@[simp] theorem lo32_zext64 (a : Word) : lo32 (zext64 a) = a :=
  (extract_eq_iff ..).2 fun i hi => by simp [zext64, show i < 64 by omega]

@[simp] theorem lo32_sext64 (a : Word) : lo32 (sext64 a) = a :=
  (extract_eq_iff ..).2 fun i hi => by simp [sext64, BitVec.getElem_signExtend, hi, show i < 64 by omega]

/-- A multiple of 2^32 is added to the high half alone. -/
theorem hi32_ofInt_add (z k : Int) :
    hi32 (BitVec.ofInt 64 (z + 2 ^ 32 * k)) = hi32 (BitVec.ofInt 64 z) + BitVec.ofInt 32 k := by
  apply BitVec.eq_of_toNat_eq
  simp only [hi32, BitVec.extractLsb'_toNat, BitVec.toNat_add, BitVec.toNat_ofInt, Nat.shiftRight_eq_div_pow]
  omega

/-- The sign bit of a word as a number. -/
def signBit (a : Word) : Int := if a.getLsbD 31 then 1 else 0

/-- A signed word is the unsigned one minus 2^32 where its sign bit is set. -/
theorem toInt_eq_toNat_sub (a : Word) : a.toInt = a.toNat - 2 ^ 32 * signBit a := by
  rw [BitVec.toInt_eq_msb_cond, BitVec.msb_eq_getLsbD_last, signBit]
  split <;> simp

theorem ofInt_signBit_mul (a b : Word) :
    BitVec.ofInt 32 (signBit a * b.toNat) = if a.getLsbD 31 then b else 0 := by
  unfold signBit
  split <;> simp

/-- The signed product in terms of the unsigned one: the corrections are multiples of 2^32. -/
theorem toInt_mul_toInt (a b : Word) :
    a.toInt * b.toInt = (a.toNat * b.toNat : ℕ) +
      2 ^ 32 * (2 ^ 32 * (signBit a * signBit b) + -(signBit a * b.toNat) + -(signBit b * a.toNat)) := by
  rw [toInt_eq_toNat_sub a, toInt_eq_toNat_sub b]
  push_cast
  ring

/-- R186 (f): the high halves differ by the other operand for each negative one. -/
theorem hi32_sext64_mul (a b : Word) :
    hi32 (sext64 a * sext64 b) = hi32 (zext64 a * zext64 b) -
      (if a.getLsbD 31 then b else 0) - (if b.getLsbD 31 then a else 0) := by
  have hwrap : ∀ k : Int, BitVec.ofInt 32 (2 ^ 32 * k) = 0 := fun k => by
    apply BitVec.eq_of_toNat_eq
    simp
  rw [sext64_mul_eq_ofInt, toInt_mul_toInt, hi32_ofInt_add, ← zext64_mul_eq_ofInt, BitVec.ofInt_add,
    BitVec.ofInt_add, BitVec.ofInt_neg, BitVec.ofInt_neg, hwrap, ofInt_signBit_mul, ofInt_signBit_mul]
  ring

end Sys2Proof.Machine
end

section
/-! PROOF. The next state of each executed multiply, and what it changes: the destination words and, with S = 1,
N and Z of the result (spec/42_multiply.md R171 to R176, R180, R181). -/

namespace Sys2Proof.Machine

variable {s t : State} {m : Mode} {c : Cond} {sf n z : Bool} {rd rdHi rdLo : RegIdx}

/-! ### The status word of a multiply -/

/-- A multiply writes no status bit beside N and Z (R181). -/
theorem getLsbD_multiplyFlags_of_not_mem {k : Nat} (hk : k ∉ [31, 30]) (w : Word) :
    (multiplyFlags sf n z w).getLsbD k = w.getLsbD k := by
  obtain ⟨h31, h30⟩ : k ≠ 31 ∧ k ≠ 30 := by simpa using hk
  simp [getLsbD_multiplyFlags, h31, h30]

theorem multiplyStatus_of_cpsr (h : t.cpsr = multiplyFlags sf n z s.cpsr) : MultiplyStatus sf n z s t :=
  ⟨h ▸ flagN_multiplyFlags .., h ▸ flagZ_multiplyFlags ..,
    fun _ hk => h ▸ getLsbD_multiplyFlags_of_not_mem hk s.cpsr⟩

/-- The flags by the value of S, C and V beside them (R180, R181). -/
theorem flags_of_cpsr (h : t.cpsr = multiplyFlags sf n z s.cpsr) :
    (sf = true → flagN t.cpsr = n ∧ flagZ t.cpsr = z) ∧ (sf = false → t.cpsr = s.cpsr) ∧
      flagC t.cpsr = flagC s.cpsr ∧ flagV t.cpsr = flagV s.cpsr := by
  rw [h]
  refine ⟨fun hs => ?_, fun hs => ?_, flagC_multiplyFlags .., flagV_multiplyFlags ..⟩
  · simp [hs]
  · simp [hs, multiplyFlags]

/-! ### After a 32-bit form -/

/-- The state after a 32-bit form in mode `m` has written the result `r` to Rd. -/
def State.afterShort (s : State) (m : Mode) (sf : Bool) (rd : RegIdx) (r : Word) : State :=
  (s.setPhys (phys rd m) r).setCpsr (multiplyFlags sf (negative32 r) (zero32 r) s.cpsr)

theorem exec_mul (rs rm : RegIdx) (unusedRn : BitVec 4) (h : passes c s.cpsr = true)
    (hm : modeOf s.cpsr = some m) :
    exec (.mul c sf rd unusedRn rs rm) s =
      .next (s.afterShort m sf rd (s.getPhys (phys rm m) * s.getPhys (phys rs m))) :=
  (execMul_next sf rd unusedRn rs rm h hm).trans (finishShort_of_some _ sf rd _ hm)

theorem exec_mla (rn rs rm : RegIdx) (h : passes c s.cpsr = true) (hm : modeOf s.cpsr = some m) :
    exec (.mla c sf rd rn rs rm) s =
      .next (s.afterShort m sf rd
        (s.getPhys (phys rm m) * s.getPhys (phys rs m) + s.getPhys (phys rn m))) :=
  (execMla_next sf rd rn rs rm h hm).trans (finishShort_of_some _ sf rd _ hm)

@[simp] theorem getPhys_afterShort (r : Word) : (s.afterShort m sf rd r).getPhys (phys rd m) = r := by
  simp [State.afterShort]

theorem cpsr_afterShort (r : Word) :
    (s.afterShort m sf rd r).cpsr = multiplyFlags sf (negative32 r) (zero32 r) s.cpsr := rfl

theorem frame_afterShort (r : Word) : Frame [phys rd m] [31, 30] s (s.afterShort m sf rd r) :=
  ((Frame.refl [] _ s).setPhys _ r).setCpsr fun _ hk => getLsbD_multiplyFlags_of_not_mem hk _

/-- All that a 32-bit form changes. -/
theorem afterShort_spec (s : State) (m : Mode) (sf : Bool) (rd : RegIdx) (r : Word) :
    (s.afterShort m sf rd r).getPhys (phys rd m) = r ∧
      MultiplyStatus sf (r.getLsbD 31) (r == 0) s (s.afterShort m sf rd r) ∧
      Frame [phys rd m] [31, 30] s (s.afterShort m sf rd r) :=
  ⟨getPhys_afterShort r, multiplyStatus_of_cpsr (cpsr_afterShort r), frame_afterShort r⟩

/-! ### After a 64-bit form -/

/-- The state after a 64-bit form in mode `m` has written the result `p` to RdHi:RdLo. -/
def State.afterLong (s : State) (m : Mode) (sf : Bool) (rdHi rdLo : RegIdx) (p : DWord) : State :=
  ((s.setPhys (phys rdLo m) (lo32 p)).setPhys (phys rdHi m) (hi32 p)).setCpsr
    (multiplyFlags sf (negative64 p) (zero64 p) s.cpsr)

section

variable (sf) (rs rm : RegIdx) (h : passes c s.cpsr = true) (hm : modeOf s.cpsr = some m) (hne : rdHi ≠ rdLo)

include h hm hne

theorem exec_umull : exec (.umull c sf rdHi rdLo rs rm) s =
    .next (s.afterLong m sf rdHi rdLo (zext64 (s.getPhys (phys rm m)) * zext64 (s.getPhys (phys rs m)))) :=
  (longMultiply_next _ zext64 sf rs rm h hm hne).trans (finishLong_of_some _ sf rdHi rdLo _ hm)

theorem exec_umlal : exec (.umlal c sf rdHi rdLo rs rm) s =
    .next (s.afterLong m sf rdHi rdLo (zext64 (s.getPhys (phys rm m)) * zext64 (s.getPhys (phys rs m)) +
      join64 (s.getPhys (phys rdHi m)) (s.getPhys (phys rdLo m)))) :=
  (longMultiplyAccumulate_next _ zext64 sf rs rm h hm hne).trans (finishLong_of_some _ sf rdHi rdLo _ hm)

theorem exec_smull : exec (.smull c sf rdHi rdLo rs rm) s =
    .next (s.afterLong m sf rdHi rdLo (sext64 (s.getPhys (phys rm m)) * sext64 (s.getPhys (phys rs m)))) :=
  (longMultiply_next _ sext64 sf rs rm h hm hne).trans (finishLong_of_some _ sf rdHi rdLo _ hm)

theorem exec_smlal : exec (.smlal c sf rdHi rdLo rs rm) s =
    .next (s.afterLong m sf rdHi rdLo (sext64 (s.getPhys (phys rm m)) * sext64 (s.getPhys (phys rs m)) +
      join64 (s.getPhys (phys rdHi m)) (s.getPhys (phys rdLo m)))) :=
  (longMultiplyAccumulate_next _ sext64 sf rs rm h hm hne).trans (finishLong_of_some _ sf rdHi rdLo _ hm)

end

@[simp] theorem getPhys_afterLong_hi (p : DWord) :
    (s.afterLong m sf rdHi rdLo p).getPhys (phys rdHi m) = hi32 p := by
  simp [State.afterLong]

/-- The high half is written last, to another word (R184, R185). -/
theorem getPhys_afterLong_lo (hne : rdHi ≠ rdLo) (p : DWord) :
    (s.afterLong m sf rdHi rdLo p).getPhys (phys rdLo m) = lo32 p := by
  simp [State.afterLong, getPhys_setPhys_of_ne _ _ (phys_ne_of_ne hne.symm m m)]

theorem cpsr_afterLong (p : DWord) :
    (s.afterLong m sf rdHi rdLo p).cpsr = multiplyFlags sf (negative64 p) (zero64 p) s.cpsr := rfl

theorem multiplyStatus_afterLong (p : DWord) :
    MultiplyStatus sf ((hi32 p).getLsbD 31) (hi32 p == 0 && lo32 p == 0) s (s.afterLong m sf rdHi rdLo p) := by
  rw [← negative64_eq, ← zero64_eq]
  exact multiplyStatus_of_cpsr (cpsr_afterLong p)

theorem frame_afterLong (p : DWord) :
    Frame [phys rdHi m, phys rdLo m] [31, 30] s (s.afterLong m sf rdHi rdLo p) :=
  (((Frame.refl [] _ s).setPhys _ (lo32 p)).setPhys _ (hi32 p)).setCpsr fun _ hk =>
    getLsbD_multiplyFlags_of_not_mem hk _

/-- All that a 64-bit form changes. -/
theorem afterLong_spec (s : State) (m : Mode) (sf : Bool) (hne : rdHi ≠ rdLo) (p : DWord) :
    (s.afterLong m sf rdHi rdLo p).getPhys (phys rdHi m) = hi32 p ∧
      (s.afterLong m sf rdHi rdLo p).getPhys (phys rdLo m) = lo32 p ∧
      MultiplyStatus sf ((hi32 p).getLsbD 31) (hi32 p == 0 && lo32 p == 0) s (s.afterLong m sf rdHi rdLo p) ∧
      Frame [phys rdHi m, phys rdLo m] [31, 30] s (s.afterLong m sf rdHi rdLo p) :=
  ⟨getPhys_afterLong_hi p, getPhys_afterLong_lo hne p, multiplyStatus_afterLong p, frame_afterLong p⟩

end Sys2Proof.Machine
end

section
/-! PROOF. What each multiply answers (spec/42_multiply.md): the six executed forms (R171 to R176), the sign
corrections between the two products (R186), the refused and the unsupported forms (R177, R178, R184), and the
flags of every form that completes (R180, R181). -/

namespace Sys2Proof.Machine

variable {s t : State} {m : Mode} {c : Cond} {sf : Bool} {rd rdHi rdLo : RegIdx}

/-! ### The six multiplies -/

/-- Settles O27: Rd gets the product of two words, which wraps. -/
theorem mulGivesTheLowWordOfTheProduct : Obligations.MulGivesTheLowWordOfTheProduct := by
  intro c sf rd unusedRn rs rm s m h hm
  exact ⟨_, _, exec_mul rs rm unusedRn h hm, BitVec.toNat_mul .., afterShort_spec s m sf rd _⟩

/-- Settles O28: the wrap of the product is absorbed by the wrap of the sum. -/
theorem mlaAddsTheAccumulatorRegister : Obligations.MlaAddsTheAccumulatorRegister := by
  intro c sf rd rn rs rm s m h hm
  refine ⟨_, _, exec_mla rn rs rm h hm, ?_, afterShort_spec s m sf rd _⟩
  rw [BitVec.toNat_add, BitVec.toNat_mul, Nat.mod_add_mod]

/-- Settles O29: the unsigned product fits in the two destinations. -/
theorem umullGivesTheExactUnsignedProduct : Obligations.UmullGivesTheExactUnsignedProduct := by
  intro c sf rdHi rdLo rs rm s m h hm hne
  refine ⟨_, _, _, exec_umull sf rs rm h hm hne, ?_, afterLong_spec s m sf hne _⟩
  rw [toNat_hi32_lo32, toNat_zext64_mul]

/-- Settles O30: only the addition of the accumulator wraps. -/
theorem umlalAddsTheUnsignedAccumulator : Obligations.UmlalAddsTheUnsignedAccumulator := by
  intro c sf rdHi rdLo rs rm s m h hm hne
  refine ⟨_, _, _, exec_umlal sf rs rm h hm hne, ?_, afterLong_spec s m sf hne _⟩
  rw [toNat_hi32_lo32, BitVec.toNat_add, toNat_zext64_mul, toNat_join64]

/-- Settles O31: the signed product fits in the two destinations. -/
theorem smullGivesTheExactSignedProduct : Obligations.SmullGivesTheExactSignedProduct := by
  intro c sf rdHi rdLo rs rm s m h hm hne
  refine ⟨_, _, _, exec_smull sf rs rm h hm hne, ?_, afterLong_spec s m sf hne _⟩
  rw [← join64, join64_hi32_lo32, toInt_sext64_mul]

/-- Settles O32: only the addition of the accumulator wraps. -/
theorem smlalAddsTheSignedAccumulator : Obligations.SmlalAddsTheSignedAccumulator := by
  intro c sf rdHi rdLo rs rm s m h hm hne
  refine ⟨_, _, _, exec_smlal sf rs rm h hm hne, ?_, afterLong_spec s m sf hne _⟩
  rw [← join64, join64_hi32_lo32, BitVec.toInt_add, toInt_sext64_mul, join64]

/-- Settles O34: the low half of a product does not see the widening, the high half does by `hi32_sext64_mul`. -/
theorem signedAndUnsignedProductsDifferInTheHighWord :
    Obligations.SignedAndUnsignedProductsDifferInTheHighWord := by
  intro c sf rdHi rdLo rs rm s m h hm hne
  refine ⟨_, _, _, exec_umull sf rs rm h hm hne, exec_smull sf rs rm h hm hne, exec_mul rs rm 0 h hm, ?_, ?_, ?_⟩
  · simp [getPhys_afterLong_lo hne, lo32_mul]
  · simp [getPhys_afterLong_lo hne, lo32_mul]
  · simp only [getPhys_afterLong_hi, hi32_sext64_mul]

/-! ### The multiplies that are refused or unsupported -/

/-- Settles O35: the destinations are compared before the mode is asked for. -/
theorem longMultiplyIntoOneRegisterIsRefused : Obligations.LongMultiplyIntoOneRegisterIsRefused := by
  intro c sf rd rs rm s h
  simp only [List.forall_mem_cons, List.not_mem_nil, false_imp_iff, implies_true, and_true]
  exact ⟨longMultiply_sameDestination _ _ _ _ _ _ h, longMultiplyAccumulate_sameDestination _ _ _ _ _ _ h,
    longMultiply_sameDestination _ _ _ _ _ _ h, longMultiplyAccumulate_sameDestination _ _ _ _ _ _ h⟩

/-- Settles O37: UMAAL has no handler, in any state. -/
theorem umaalIsUnsupported : Obligations.UmaalIsUnsupported := fun _ _ _ _ _ _ _ =>
  ⟨unsupported_of_true _ _, unsupported_of_false _ _⟩

/-- Settles O38: each of the nine is `unsupported` with its own field. -/
theorem unnamedSubOperationsAreUnsupported : Obligations.UnnamedSubOperationsAreUnsupported := by
  intro c sf d n rs rm s
  simp only [List.forall_mem_cons, List.not_mem_nil, false_imp_iff, implies_true, and_true]
  refine ⟨?_, ?_, ?_, ?_, ?_, ?_, ?_, ?_, ?_⟩ <;>
    exact ⟨unsupported_of_true _ _, unsupported_of_false _ _⟩

/-! ### The flags of a completed multiply -/

/-- A completed 32-bit form has written some result. -/
theorem eq_afterShort_of_exec {rn rs rm : RegIdx} {i : Instr} (h : passes c s.cpsr = true)
    (hm : modeOf s.cpsr = some m) (hi : i ∈ [Instr.mul c sf rd rn rs rm, .mla c sf rd rn rs rm])
    (hx : exec i s = .next t) : ∃ r, t = s.afterShort m sf rd r := by
  simp only [List.mem_cons, List.not_mem_nil, or_false] at hi
  obtain rfl | rfl := hi
  · exact ⟨_, Host.Outcome.next.inj (hx.symm.trans (exec_mul rs rm rn h hm))⟩
  · exact ⟨_, Host.Outcome.next.inj (hx.symm.trans (exec_mla rn rs rm h hm))⟩

/-- A completed 64-bit form has written some result, to two different registers. -/
theorem eq_afterLong_of_exec {rs rm : RegIdx} {i : Instr} (h : passes c s.cpsr = true)
    (hm : modeOf s.cpsr = some m)
    (hi : i ∈ [Instr.umull c sf rdHi rdLo rs rm, .umlal c sf rdHi rdLo rs rm, .smull c sf rdHi rdLo rs rm,
      .smlal c sf rdHi rdLo rs rm])
    (hx : exec i s = .next t) :
    rdHi ≠ rdLo ∧ ∃ p, t = s.afterLong m sf rdHi rdLo p := by
  have hne : rdHi ≠ rdLo := by
    rintro rfl
    cases hx.symm.trans (longMultiplyIntoOneRegisterIsRefused c sf rdHi rs rm s h i hi)
  refine ⟨hne, ?_⟩
  simp only [List.mem_cons, List.not_mem_nil, or_false] at hi
  obtain rfl | rfl | rfl | rfl := hi
  · exact ⟨_, Host.Outcome.next.inj (hx.symm.trans (exec_umull sf rs rm h hm hne))⟩
  · exact ⟨_, Host.Outcome.next.inj (hx.symm.trans (exec_umlal sf rs rm h hm hne))⟩
  · exact ⟨_, Host.Outcome.next.inj (hx.symm.trans (exec_smull sf rs rm h hm hne))⟩
  · exact ⟨_, Host.Outcome.next.inj (hx.symm.trans (exec_smlal sf rs rm h hm hne))⟩

/-- Settles O33: the destination holds the result that the flags were computed from. -/
theorem multiplyFlagsAreNegativeAndZeroOfTheResult :
    Obligations.MultiplyFlagsAreNegativeAndZeroOfTheResult := by
  intro c sf d n rs rm s t m h hm
  refine ⟨fun i hi hx => ?_, fun i hi hx => ?_⟩
  · obtain ⟨r, rfl⟩ := eq_afterShort_of_exec h hm hi hx
    rw [getPhys_afterShort]
    exact flags_of_cpsr (cpsr_afterShort r)
  · obtain ⟨hne, p, rfl⟩ := eq_afterLong_of_exec h hm hi hx
    rw [getPhys_afterLong_hi, getPhys_afterLong_lo hne, ← join64, join64_hi32_lo32]
    exact flags_of_cpsr (cpsr_afterLong p)

end Sys2Proof.Machine
end

section
/-! PROOF. The categories that are decoded and not executed (spec/43_decoded_unexecuted.md R200): the fault of one
whose condition passes, the unchanged state of one whose condition fails. -/

namespace Sys2Proof.Machine

/-- An instruction for which the core has no handler and no sub-operation field to report: the fault is the
dispatcher's, the skip is that of every instruction (`failedConditionChangesNothing`). -/
theorem faults_or_skips_of_exec_eq_unsupported {i : Instr} {c : Cond} {s : State} (hc : i.cond = c)
    (hx : exec i s = unsupported (encode i) none c s) :
    (passes c s.cpsr = true → exec i s = .fault (.unsupportedOperation (encode i) none)) ∧
      (passes c s.cpsr = false → exec i s = .next s ∧ pcWritten i s = false) :=
  ⟨fun hp => hx.trans (unsupported_of_true _ _ hp), hc ▸ failedConditionChangesNothing i s⟩

/-- Settles O36: each of the thirteen is `unsupported` with its own word and no field. -/
theorem unexecutedCategoriesFaultWhenTheirConditionPasses :
    Obligations.UnexecutedCategoriesFaultWhenTheirConditionPasses := by
  intro c u1 v1 u4 l4 u5 m8 m12 l20 k24 u26 s
  simp only [List.forall_mem_cons, List.not_mem_nil, false_imp_iff, implies_true, and_true]
  refine ⟨?swi, ?ldm, ?stm, ?ldr, ?str, ?ldrh, ?ldrsb, ?ldrsh, ?strh, ?mrs, ?msr, ?swp, ?dp⟩ <;>
    exact faults_or_skips_of_exec_eq_unsupported rfl rfl

end Sys2Proof.Machine
end

section
/-! PROOF. The error of a word that the decoder rejects (spec/60_exceptions.md R221, R228), and what changes the
status word: a step within N, Z and bit 5, the host by the raw write alone (R234, spec/10_state.md R48). -/

namespace Sys2Proof.Machine

variable {s t : State} {i : Nat}

/-! ### A word that does not decode -/

theorem step_of_decode_error {w v : Word} (h : Fetches s w)
    (hd : decode w = .error (.unrecognizedInstruction v)) : step s = .fault (.unrecognizedInstruction v) := by
  rw [step_of_fetches h, coreStep_of_decode_error h hd, andThen_fault]

/-- Settles O41: the decoder rejects the word, and decoding precedes every look at the condition and the mode. -/
theorem unrecognizedWordFaultsWhateverItsCondition :
    Obligations.UnrecognizedWordFaultsWhateverItsCondition := by
  intro s w h hw
  have hd : decode w = .error (.unrecognizedInstruction w) :=
    (unrecognizedWordsAreTheCoprocessorSpace w).1.2 hw
  exact ⟨step_of_decode_error h hd, coreStep_of_decode_error h hd⟩

/-! ### A host action that answers next -/

theorem whileRunning_eq_next {α : Type} {r : Result α} {a : α} :
    whileRunning s r = .next a ↔ s.halted = false ∧ r = .next a := by
  cases hs : s.halted <;> simp [whileRunning, hs]

theorem portIndex_eq_next {r : RegIdx} : portIndex i = .next r ↔ i ≤ 15 ∧ r = BitVec.ofNat 4 i := by
  by_cases hi : i ≤ 15
  · simp [portIndex_of_le hi, hi, eq_comm]
  · simp [portIndex_of_gt (Nat.lt_of_not_le hi), hi]

/-- A register write through the port that answers next wrote the word the current mode selects (R47). -/
theorem portWrite_eq_next {v : Word} :
    portWrite i v s = .next t ↔ s.halted = false ∧ i ≤ 15 ∧
      ∃ m, modeOf s.cpsr = some m ∧ t = s.setPhys (phys (BitVec.ofNat 4 i) m) v := by
  simp only [portWrite, whileRunning_eq_next, andThen_eq_next, portIndex_eq_next, writeReg_eq_next, and_assoc,
    exists_and_left, exists_eq_left]

/-- Everything a host action can have done: a read nothing, a register write one word, the raw status write the
status word (spec/20_memory.md R70). -/
theorem hostAct_cases {a : HostAction} (h : hostAct a s = .next t) :
    t = s ∨
    (∃ i v m, a = .writeRegister i v ∧ modeOf s.cpsr = some m ∧
      t = s.setPhys (phys (BitVec.ofNat 4 i) m) v) ∨
    ∃ v, a = .writeStatus v ∧ t = s.setCpsr v := by
  cases a with
  | readRegister _ | readStatus =>
    obtain ⟨_, -, ht⟩ := andThen_eq_next.1 h
    exact .inl (Host.Outcome.next.inj ht).symm
  | writeRegister i v =>
    obtain ⟨-, -, m, hm, ht⟩ := portWrite_eq_next.1 h
    exact .inr (.inl ⟨i, v, m, rfl, hm, ht⟩)
  | writeStatus v =>
    obtain ⟨-, ht⟩ := whileRunning_eq_next.1 h
    exact .inr (.inr ⟨v, rfl, (Host.Outcome.next.inj ht).symm⟩)

/-- Settles O45: a step keeps the mode by its frame, and of the host's actions only the raw status write touches
the status word. -/
theorem onlyTheRawStatusPortChangesTheMode : Obligations.OnlyTheRawStatusPortChangesTheMode := by
  refine fun s t => ⟨fun h => ?step, fun a h => ?host⟩
  case step =>
    obtain ⟨qs, hframe, -⟩ := step_frame h
    have hmode : modeOf t.cpsr = modeOf s.cpsr := hframe.modeOf_eq (by decide)
    obtain ⟨-, hcpsr, -⟩ := hframe
    exact ⟨hmode, hcpsr⟩
  case host =>
    have hs : RestFrame s s := ⟨rfl, rfl, fun _ => rfl⟩
    obtain rfl | ⟨i, v, m, rfl, hm, rfl⟩ | ⟨v, rfl, rfl⟩ := hostAct_cases h
    · exact ⟨fun hne => absurd rfl hne, hs, .inl fun _ _ => rfl⟩
    · obtain ⟨hreg, -, hrest⟩ := (Frame.refl [] [] s).setPhys (phys (BitVec.ofNat 4 i) m) v
      exact ⟨fun hne => absurd (setPhys_cpsr ..) hne, hrest,
        .inr ⟨i, v, m, rfl, hm, hreg, getPhys_setPhys_self ..⟩⟩
    · exact ⟨fun _ => rfl, hs, .inl fun _ _ => rfl⟩

end Sys2Proof.Machine
end

section
/-! PROOF. The encoder and the decoder as inverses (spec/30_encoding.md sections 2, 3 and 7). -/

namespace Sys2Proof

variable {w : Word}

/-! ### Reading a field of an encoded word -/

/-- A field read at the place where it was put is the field. -/
theorem extractLsb'_place_self {lo n : Nat} (f : BitVec n) (h : lo + n ≤ 32) :
    (place lo f).extractLsb' lo n = f := by
  rw [extract_eq_iff]
  intro i hi
  rw [getLsbD_place lo f (lo + i) (by omega), Nat.add_sub_cancel_left, decide_eq_true (Nat.le_add_right ..),
    Bool.true_and]

/-- A field read away from the place of another sees none of it. -/
theorem extractLsb'_place_of_disjoint {lo n a len : Nat} (f : BitVec n)
    (h : a + len ≤ lo ∨ lo + n ≤ a) : (place lo f).extractLsb' a len = 0 := by
  rw [extract_eq_iff]
  intro i hi
  by_cases hin : lo ≤ a + i
  · have hout : n ≤ a + i - lo := by omega
    simp [place, BitVec.getLsbD_of_ge f _ hout]
  · simp [place, Nat.lt_of_not_le hin]

/-- The S bit as a field of one bit. -/
theorem ofBool_sBit (w : Word) : BitVec.ofBool (sBit w) = w.extractLsb' 20 1 := by
  ext i hi
  obtain rfl : i = 0 := by omega
  simp [sBit]

theorem sBit_eq_iff {s : Bool} : sBit w = s ↔ w.extractLsb' 20 1 = BitVec.ofBool s := by
  rw [← ofBool_sBit, BitVec.ofBool_eq_iff_eq]

/-- The fields of a word of the multiply format are the ones it was written with (R105). -/
theorem fields_encodeMultiply (c : Cond) (sub : BitVec 4) (s : Bool) (d n rs rm : BitVec 4) :
    condOf (encodeMultiply c sub s d n rs rm) = c ∧
    (encodeMultiply c sub s d n rs rm).extractLsb' 21 4 = sub ∧
    sBit (encodeMultiply c sub s d n rs rm) = s ∧
    fieldD (encodeMultiply c sub s d n rs rm) = d ∧ fieldN (encodeMultiply c sub s d n rs rm) = n ∧
    fieldS (encodeMultiply c sub s d n rs rm) = rs ∧ fieldM (encodeMultiply c sub s d n rs rm) = rm := by
  refine ⟨?_, ?_, sBit_eq_iff.2 ?_, ?_, ?_, ?_, ?_⟩ <;>
    simp [condOf, fieldD, fieldN, fieldS, fieldM, encodeMultiply, BitVec.extractLsb'_or, extractLsb'_place_self,
      extractLsb'_place_of_disjoint]

/-- Reading an encoded word by the instruction's own category gives the instruction back. -/
theorem readInstr_encode (i : Instr) : readInstr (encode i) i.category = i := by
  cases i
  case mul | mla | umaal | umull | umlal | smull | smlal | mulSub0011 | mulSub1000 | mulSub1001 | mulSub1010 |
      mulSub1011 | mulSub1100 | mulSub1101 | mulSub1110 | mulSub1111 =>
    simp [Instr.category, readInstr, readMultiply, encode, fields_encodeMultiply]
  all_goals
    simp [Instr.category, readInstr, encode, condOf, fieldM, BitVec.extractLsb'_or, extractLsb'_place_self,
      extractLsb'_place_of_disjoint]

/-- The decoder's search finds a well-formed instruction's own category (R82, R113). -/
theorem classify_encode : ∀ i : Instr, i.wf = true → classify (encode i) = some i.category
  | .swi .., h => Laws.Classified.swi _ _ h
  | .bl .., h => Laws.Classified.bl _ _ h
  | .b .., h => Laws.Classified.b _ _ h
  | .bx .., h => Laws.Classified.bx _ _ h
  | .ldm .., h => Laws.Classified.ldm _ _ _ h
  | .stm .., h => Laws.Classified.stm _ _ _ h
  | .ldr .., h => Laws.Classified.ldr _ _ _ h
  | .str .., h => Laws.Classified.str _ _ _ h
  | .ldrh .., h => Laws.Classified.ldrh _ _ _ _ h
  | .ldrsb .., h => Laws.Classified.ldrsb _ _ _ _ h
  | .ldrsh .., h => Laws.Classified.ldrsh _ _ _ _ h
  | .strh .., h => Laws.Classified.strh _ _ _ _ h
  | .mrs .., h => Laws.Classified.mrs _ _ _ h
  | .msr .., h => Laws.Classified.msr _ _ _ _ _ h
  | .swp .., h => Laws.Classified.swp _ _ _ _ h
  | .mul .., h => Laws.Classified.mul _ _ _ _ _ _ h
  | .mla .., h => Laws.Classified.mla _ _ _ _ _ _ h
  | .umaal .., h => Laws.Classified.umaal _ _ _ _ _ _ h
  | .mulSub0011 .., h => Laws.Classified.mulSub0011 _ _ _ _ _ _ h
  | .umull .., h => Laws.Classified.umull _ _ _ _ _ _ h
  | .umlal .., h => Laws.Classified.umlal _ _ _ _ _ _ h
  | .smull .., h => Laws.Classified.smull _ _ _ _ _ _ h
  | .smlal .., h => Laws.Classified.smlal _ _ _ _ _ _ h
  | .mulSub1000 .., h => Laws.Classified.mulSub1000 _ _ _ _ _ _ h
  | .mulSub1001 .., h => Laws.Classified.mulSub1001 _ _ _ _ _ _ h
  | .mulSub1010 .., h => Laws.Classified.mulSub1010 _ _ _ _ _ _ h
  | .mulSub1011 .., h => Laws.Classified.mulSub1011 _ _ _ _ _ _ h
  | .mulSub1100 .., h => Laws.Classified.mulSub1100 _ _ _ _ _ _ h
  | .mulSub1101 .., h => Laws.Classified.mulSub1101 _ _ _ _ _ _ h
  | .mulSub1110 .., h => Laws.Classified.mulSub1110 _ _ _ _ _ _ h
  | .mulSub1111 .., h => Laws.Classified.mulSub1111 _ _ _ _ _ _ h
  | .dp .., h => Laws.Classified.dp _ _ h

/-- What the decoder accepts: a category is found, and the fields are read by it. -/
theorem decode_eq_ok_iff {i : Instr} :
    decode w = .ok i ↔ ∃ c, classify w = some c ∧ i = readInstr w c := by
  unfold decode
  cases classify w <;> simp [eq_comm]

/-- Settles O1: the search finds the instruction's category, and the reader finds its fields. -/
theorem decodeOfEncodeIsIdentity : Obligations.DecodeOfEncodeIsIdentity := fun i hwf =>
  decode_eq_ok_iff.2 ⟨_, classify_encode i hwf, (readInstr_encode i).symm⟩

/-! ### Writing back the fields of a word -/

/-- A field put back where it was read is the word without its other bits. -/
theorem place_extractLsb' {lo n : Nat} (w : Word) :
    place lo (w.extractLsb' lo n) = w &&& place lo (BitVec.allOnes n) := by
  refine BitVec.eq_of_getLsbD_eq fun i hi => ?_
  rw [BitVec.getLsbD_and, getLsbD_place _ _ _ hi, getLsbD_place _ _ _ hi]
  by_cases hlo : lo ≤ i
  · simp [hlo, Bool.and_comm]
  · simp [hlo]

/-- The bits that a pattern fixes and the bits that are free make the word, where no bit is neither. -/
theorem value_or_free_eq {mask value free : Word} (hw : w &&& mask = value)
    (hcover : mask ||| free = BitVec.allOnes 32) : value ||| w &&& free = w := by
  rw [← hw, ← BitVec.and_or_distrib_left, hcover]
  exact BitVec.and_allOnes

/-- The sixteen sub-operations are one format: the encoder writes the sub-operation that the reader read. -/
theorem encode_readMultiply (w : Word) :
    encode (readMultiply w) =
      encodeMultiply (condOf w) (w.extractLsb' 21 4) (sBit w) (fieldD w) (fieldN w) (fieldS w) (fieldM w) := by
  unfold readMultiply
  generalize w.extractLsb' 21 4 = sub
  obtain ⟨⟨k, hk⟩⟩ := sub
  interval_cases k <;> rfl

theorem encode_readMultiply_of_matches (hw : w &&& 0x0E00_00F0 = 0x0000_0090) :
    encode (readMultiply w) = w := by
  simp only [encode_readMultiply, encodeMultiply, condOf, bits_ofBits, ofBool_sBit, fieldD, fieldN, fieldS,
    fieldM, place_extractLsb', BitVec.or_assoc, ← BitVec.and_or_distrib_left]
  refine value_or_free_eq hw ?_
  decide

/-- A word that a row of the table takes, read by that row and encoded again, is the word: every bit is one that
the row fixes or one that its constructor carries. -/
theorem encode_readInstr_of_matches :
    ∀ p ∈ patterns, w &&& p.mask = p.value → encode (readInstr w p.category) = w := by
  simp only [patterns, List.forall_mem_cons, List.not_mem_nil, false_imp_iff, implies_true, and_true]
  refine ⟨?_, ?_, ?_, ?_, ?_, ?_, ?_, ?_, ?_, ?_, ?_, ?_, ?_, ?_, ?_, encode_readMultiply_of_matches, ?_⟩
  all_goals
    intro hw
    simp only [readInstr, encode, condOf, bits_ofBits, fieldM, place_extractLsb', BitVec.or_assoc,
      ← BitVec.and_or_distrib_left]
    refine value_or_free_eq hw ?_
    decide

/-! ### The instruction of a word is well formed

Each check of `Instr.wf`, read on the fields of a word, is a masked comparison. Joined with the comparison of the
row that took the word it gives the comparison of an earlier row, which that row is known to have failed. -/

/-- A category stands once in the table, so its row took the word and every earlier row did not. -/
theorem matches_of_classify {k : Nat} {p : Pattern} (hk : patterns[k]? = some p)
    (h : classify w = some p.category) :
    w &&& p.mask = p.value ∧
      ∀ (j : Nat) (q : Pattern), j < k → patterns[j]? = some q → w &&& q.mask ≠ q.value := by
  obtain ⟨i, q, hi, hq, hcat, hfirst⟩ := classify_eq_some_iff.1 h
  have hnodup : (patterns.map (·.category)).Nodup := by decide
  have hlt : i < (patterns.map (·.category)).length := by
    rw [List.length_map]
    exact (List.getElem?_eq_some_iff.1 hi).1
  obtain rfl : i = k := (List.getElem?_inj hlt hnodup).1 (by
    rw [List.getElem?_map, List.getElem?_map, hi, hk, Option.map_some, Option.map_some, hcat])
  obtain rfl : p = q := Option.some.inj (hk.symm.trans hi)
  exact ⟨hq, hfirst⟩

/-- A field has a value when the word passes the masked comparison of that field. -/
theorem field_eq_iff {lo n : Nat} (h : lo + n ≤ 32) (w : Word) (v : BitVec n) :
    w.extractLsb' lo n = v ↔ w &&& place lo (BitVec.allOnes n) = place lo v := by
  rw [and_place_eq_place_iff h, BitVec.and_allOnes]

/-- Two masked comparisons are one with the masks joined. -/
theorem and_or_eq {m n u v : Word} (hm : w &&& m = u) (hn : w &&& n = v) : w &&& (m ||| n) = u ||| v := by
  rw [BitVec.and_or_distrib_left, hm, hn]

/-- A masked comparison gives every comparison whose mask lies within its own. -/
theorem and_eq_of_within {m n u v : Word} (hm : w &&& m = u) (hn : m &&& n = n ∧ u &&& n = v) :
    w &&& n = v := by
  obtain ⟨hmask, hvalue⟩ := hn
  rw [← hmask, ← BitVec.and_assoc, hm, hvalue]

/-- R96: a word of the MSR row that the BX row does not take is not one that `msrIsBx` names. -/
theorem msrIsBx_eq_false (hw : w &&& 0x0DB0_F000 = 0x0120_F000) (hbx : w &&& 0x0FFF_FFF0 ≠ 0x012F_FF10) :
    msrIsBx (w.extractLsb' 25 1) (w.extractLsb' 22 1) (w.extractLsb' 16 4) (w.extractLsb' 0 12) = false := by
  refine Bool.eq_false_iff.2 fun h => hbx ?_
  simp (disch := decide) only [msrIsBx, Bool.and_eq_true, beq_iff_eq, BitVec.extractLsb'_extractLsb'_of_le,
    field_eq_iff] at h
  obtain ⟨⟨⟨h25, h22⟩, h16⟩, h4⟩ := h
  exact and_eq_of_within (and_or_eq hw (and_or_eq h25 (and_or_eq h22 (and_or_eq h16 h4)))) (by decide)

/-- R96: the same for the STRH row and `msrIsStrh`. -/
theorem msrIsStrh_eq_false (hw : w &&& 0x0DB0_F000 = 0x0120_F000) (hstrh : w &&& 0x0E10_00F0 ≠ 0x0000_00B0) :
    msrIsStrh (w.extractLsb' 25 1) (w.extractLsb' 0 12) = false := by
  refine Bool.eq_false_iff.2 fun h => hstrh ?_
  simp (disch := decide) only [msrIsStrh, Bool.and_eq_true, beq_iff_eq, BitVec.extractLsb'_extractLsb'_of_le,
    field_eq_iff] at h
  obtain ⟨h25, h4⟩ := h
  exact and_eq_of_within (and_or_eq hw (and_or_eq h25 h4)) (by decide)

/-- R98: a multiply word of sub-operation 10x1 that the MSR row does not take. -/
theorem multiplyIsMsr_eq_false (hw : w &&& 0x0E00_00F0 = 0x0000_0090) (hmsr : w &&& 0x0DB0_F000 ≠ 0x0120_F000)
    (hsub : (w.extractLsb' 21 4).toNat &&& 0b1101 = 0b1001) : multiplyIsMsr (sBit w) (fieldN w) = false := by
  refine Bool.eq_false_iff.2 fun h => hmsr ?_
  simp (disch := decide) only [multiplyIsMsr, fieldN, Bool.and_eq_true, Bool.not_eq_true', sBit_eq_iff,
    beq_iff_eq, field_eq_iff] at h
  obtain ⟨h20, h12⟩ := h
  have h21 := (and_place_eq_place_iff (by decide) w 0b1101#4 0b1001#4).2 (BitVec.eq_of_toNat_eq hsub)
  exact and_eq_of_within (and_or_eq hw (and_or_eq h21 (and_or_eq h20 h12))) (by decide)

/-- R98: a multiply word of sub-operation 10x0 that the SWP row does not take. -/
theorem multiplyIsSwp_eq_false (hw : w &&& 0x0E00_00F0 = 0x0000_0090) (hswp : w &&& 0x0FB0_0FF0 ≠ 0x0100_0090)
    (hsub : (w.extractLsb' 21 4).toNat &&& 0b1101 = 0b1000) : multiplyIsSwp (sBit w) (fieldS w) = false := by
  refine Bool.eq_false_iff.2 fun h => hswp ?_
  simp (disch := decide) only [multiplyIsSwp, fieldS, Bool.and_eq_true, Bool.not_eq_true', sBit_eq_iff,
    beq_iff_eq, field_eq_iff] at h
  obtain ⟨h20, h8⟩ := h
  have h21 := (and_place_eq_place_iff (by decide) w 0b1101#4 0b1000#4).2 (BitVec.eq_of_toNat_eq hsub)
  exact and_eq_of_within (and_or_eq hw (and_or_eq h21 (and_or_eq h20 h8))) (by decide)

/-- R98: a multiply word that neither the MSR row nor the SWP row takes reads as a well-formed instruction. -/
theorem readMultiply_wf (hw : w &&& 0x0E00_00F0 = 0x0000_0090) (hmsr : w &&& 0x0DB0_F000 ≠ 0x0120_F000)
    (hswp : w &&& 0x0FB0_0FF0 ≠ 0x0100_0090) : (readMultiply w).wf = true := by
  unfold readMultiply
  split
  case h_9 hsub | h_11 hsub =>
    rw [Instr.wf, multiplyIsSwp_eq_false hw hswp (by rw [hsub]; rfl), Bool.not_false]
  case h_10 hsub | h_12 hsub =>
    rw [Instr.wf, multiplyIsMsr_eq_false hw hmsr (by rw [hsub]; rfl), Bool.not_false]
  all_goals rfl

/-! #### The five checks of R99, each beside the rows whose words it takes out of the fallback class -/

theorem dpIsBx_eq_false (hw : w &&& 0x0C00_0000 = 0) (h : w &&& 0x0FFF_FFF0 ≠ 0x012F_FF10) :
    dpIsBx (w.extractLsb' 0 26) = false := by
  refine Bool.eq_false_iff.2 fun hbx => h ?_
  simp (disch := decide) only [dpIsBx, beq_iff_eq, BitVec.extractLsb'_extractLsb'_of_le,
    field_eq_iff] at hbx
  exact and_eq_of_within (and_or_eq hw hbx) (by decide)

theorem dpIsMrs_eq_false (hw : w &&& 0x0C00_0000 = 0) (h : w &&& 0x0FBF_0FFF ≠ 0x010F_0000) :
    dpIsMrs (w.extractLsb' 0 26) = false := by
  refine Bool.eq_false_iff.2 fun hmrs => h ?_
  simp (disch := decide) only [dpIsMrs, Bool.and_eq_true, beq_iff_eq, BitVec.extractLsb'_extractLsb'_of_le,
    field_eq_iff] at hmrs
  obtain ⟨⟨⟨h23, h20⟩, h16⟩, h0⟩ := hmrs
  exact and_eq_of_within (and_or_eq hw (and_or_eq h23 (and_or_eq h20 (and_or_eq h16 h0)))) (by decide)

theorem dpIsMsr_eq_false (hw : w &&& 0x0C00_0000 = 0) (h : w &&& 0x0DB0_F000 ≠ 0x0120_F000) :
    dpIsMsr (w.extractLsb' 0 26) = false := by
  refine Bool.eq_false_iff.2 fun hmsr => h ?_
  simp (disch := decide) only [dpIsMsr, Bool.and_eq_true, beq_iff_eq, BitVec.extractLsb'_extractLsb'_of_le,
    field_eq_iff] at hmsr
  obtain ⟨⟨h23, h20⟩, h12⟩ := hmsr
  exact and_eq_of_within (and_or_eq hw (and_or_eq h23 (and_or_eq h20 h12))) (by decide)

theorem dpIsMultiply_eq_false (hw : w &&& 0x0C00_0000 = 0) (h : w &&& 0x0E00_00F0 ≠ 0x0000_0090) :
    dpIsMultiply (w.extractLsb' 0 26) = false := by
  refine Bool.eq_false_iff.2 fun hmul => h ?_
  simp (disch := decide) only [dpIsMultiply, Bool.and_eq_true, beq_iff_eq, BitVec.extractLsb'_extractLsb'_of_le,
    field_eq_iff] at hmul
  obtain ⟨h25, h4⟩ := hmul
  exact and_eq_of_within (and_or_eq hw (and_or_eq h25 h4)) (by decide)

theorem dpIsHalfword_eq_false (hw : w &&& 0x0C00_0000 = 0) (hldrh : w &&& 0x0E10_00F0 ≠ 0x0010_00B0)
    (hldrsb : w &&& 0x0E10_00F0 ≠ 0x0010_00D0) (hldrsh : w &&& 0x0E10_00F0 ≠ 0x0010_00F0)
    (hstrh : w &&& 0x0E10_00F0 ≠ 0x0000_00B0) : dpIsHalfword (w.extractLsb' 0 26) = false := by
  refine Bool.eq_false_iff.2 fun h => ?_
  simp (disch := decide) only [dpIsHalfword, Bool.and_eq_true, Bool.or_eq_true, beq_iff_eq,
    BitVec.extractLsb'_extractLsb'_of_le, field_eq_iff] at h
  obtain ⟨h25, h4 | ⟨h20, h4 | h4⟩⟩ := h
  · obtain h20 | h20 := BitVec.eq_zero_or_eq_one (w.extractLsb' 20 1) <;> rw [field_eq_iff (by decide)] at h20
    · exact hstrh (and_eq_of_within (and_or_eq hw (and_or_eq h25 (and_or_eq h20 h4))) (by decide))
    · exact hldrh (and_eq_of_within (and_or_eq hw (and_or_eq h25 (and_or_eq h20 h4))) (by decide))
  · exact hldrsb (and_eq_of_within (and_or_eq hw (and_or_eq h25 (and_or_eq h20 h4))) (by decide))
  · exact hldrsh (and_eq_of_within (and_or_eq hw (and_or_eq h25 (and_or_eq h20 h4))) (by decide))

/-- A word's instruction is well formed: the row that took it stands behind the rows that did not. -/
theorem readInstr_wf {c : Category} (h : classify w = some c) : (readInstr w c).wf = true := by
  cases c
  case moveRegisterToStatus =>
    obtain ⟨hw, hfirst⟩ := matches_of_classify (k := 13) rfl h
    have hbx := msrIsBx_eq_false hw (hfirst 3 _ (by decide) rfl)
    have hstrh := msrIsStrh_eq_false hw (hfirst 11 _ (by decide) rfl)
    rw [readInstr, Instr.wf, hbx, hstrh]
    rfl
  case multiplyFamily =>
    obtain ⟨hw, hfirst⟩ := matches_of_classify (k := 15) rfl h
    exact readMultiply_wf hw (hfirst 13 _ (by decide) rfl) (hfirst 14 _ (by decide) rfl)
  case dataProcessing =>
    obtain ⟨hw, hfirst⟩ := matches_of_classify (k := 16) rfl h
    have hbx := dpIsBx_eq_false hw (hfirst 3 _ (by decide) rfl)
    have hhalf := dpIsHalfword_eq_false hw (hfirst 8 _ (by decide) rfl) (hfirst 9 _ (by decide) rfl)
      (hfirst 10 _ (by decide) rfl) (hfirst 11 _ (by decide) rfl)
    have hmrs := dpIsMrs_eq_false hw (hfirst 12 _ (by decide) rfl)
    have hmsr := dpIsMsr_eq_false hw (hfirst 13 _ (by decide) rfl)
    have hmul := dpIsMultiply_eq_false hw (hfirst 15 _ (by decide) rfl)
    rw [readInstr, Instr.wf, hbx, hhalf, hmrs, hmsr, hmul]
    rfl
  all_goals rfl

/-- Settles O2: the row that took the word writes it back from the fields read by it. -/
theorem encodeOfDecodeIsIdentity : Obligations.EncodeOfDecodeIsIdentity := by
  intro w i h
  obtain ⟨c, hc, rfl⟩ := decode_eq_ok_iff.1 h
  refine ⟨?_, readInstr_wf hc⟩
  obtain ⟨k, p, hk, hw, rfl, -⟩ := classify_eq_some_iff.1 hc
  exact encode_readInstr_of_matches p (List.mem_of_getElem? hk) hw

/-! ### The condition field -/

/-- No row of the table tests a bit above 27. -/
theorem patterns_ignore_condition :
    ∀ p ∈ patterns, p.mask = place 0 (p.mask.extractLsb' 0 28) ∧
      p.value = place 0 (p.value.extractLsb' 0 28) := by decide

/-- Settles O5: every row asks the same of the two words, so the search ends at the same row. -/
theorem decodeIgnoresTheConditionField : Obligations.DecodeIgnoresTheConditionField := by
  intro v w hvw
  refine congrArg (Option.map Pattern.category) (List.find?_congr fun p hp => ?_)
  obtain ⟨hmask, hvalue⟩ := patterns_ignore_condition p hp
  rw [Bool.eq_iff_iff, Pattern.matches_iff, Pattern.matches_iff, hmask, hvalue,
    and_place_eq_place_iff (by decide), and_place_eq_place_iff (by decide), hvw]

/-! ### Words written out -/

theorem decode_of_encode_eq {i : Instr} (hi : encode i = w) (hwf : i.wf = true) : decode w = .ok i :=
  hi ▸ decodeOfEncodeIsIdentity i hwf

/-- Settles O7: nine words are encodings of well-formed instructions, the tenth is in the coprocessor space. -/
theorem canonicalWordsDecodeToTheirInstructions : Obligations.CanonicalWordsDecodeToTheirInstructions :=
  ⟨decode_of_encode_eq rfl rfl, decode_of_encode_eq rfl rfl, decode_of_encode_eq rfl rfl,
    decode_of_encode_eq rfl rfl, decode_of_encode_eq rfl rfl, decode_of_encode_eq rfl rfl,
    decode_of_encode_eq rfl rfl, decode_of_encode_eq rfl rfl, decode_of_encode_eq rfl rfl,
    (unrecognizedWordsAreTheCoprocessorSpace _).1.2 (by decide)⟩

end Sys2Proof
end

section
/-! PROOF. The invariant of a run (spec/40_step_and_condition.md section 3, spec/41_branch.md R154): every step
keeps it, and the state after reset (spec/70_reset_and_hazards.md R251) meets it. -/

namespace Sys2Proof.Machine

variable {s t : State}

/-! ### Every step keeps it -/

/-- An instruction that runs in the Primary state keeps the invariant: it writes neither the memory nor the mode
field, and BX, which alone can enter the Alternate state, stores the odd target it took the state from (R154). -/
theorem Effect.inv (h : Effect s t) (hs : Inv s) (hp : instructionState s.cpsr = .primary) : Inv t := by
  obtain rfl | ⟨m, a, b, va, vb, w, hm, rfl, ⟨sf, n, z, rfl⟩ | ⟨rfl, rfl⟩⟩ := h
  · exact hs
  · obtain ⟨hmem, hmode, hhalted, -⟩ := hs
    refine ⟨by simpa using hmem, by simpa using hmode, by simpa using hhalted, fun halt => ?_⟩
    simp [hp] at halt
  · obtain ⟨hmem, hmode, hhalted, -⟩ := hs
    refine ⟨by simpa using hmem, by simpa using hmode, by simpa using hhalted, fun halt => ?_⟩
    rw [phys_pc, setCpsr_pPc, setPhys_pc_pPc]
    simpa using halt

/-- The advance of r15 by 4 keeps its bit 0 and everything else (spec/20_memory.md R68). -/
theorem Inv.afterStep {r : State × Bool} (h : Inv r.1) : Inv (afterStep r) := by
  unfold Machine.afterStep
  split
  · exact h
  · obtain ⟨hmem, hmode, hhalted, hodd⟩ := h
    exact ⟨hmem, hmode, hhalted, fun halt => (getLsbD_zero_add_four _).trans (hodd halt)⟩

/-- Settles O43: a step that answers next began in the Primary state; the effect of its instruction keeps the
invariant, and so does the advance of r15. -/
theorem everyStepKeepsTheInvariant : Obligations.EveryStepKeepsTheInvariant := by
  intro s t hs hstep
  obtain ⟨w, i, ⟨-, hp, -⟩, -, hi⟩ := step_eq_next_iff.1 hstep
  obtain ⟨u, hu, rfl⟩ := sequenced_eq_next hi
  exact Inv.afterStep ((exec_effect hu).inv hs hp)

/-! ### Reset meets it -/

/-- The status word after reset: clear flags, `CPSR_RESET_RSVD`, the Primary state, Supervisor mode. -/
theorem cpsr_resetWith (p : OpenParams) :
    (State.resetWith p).cpsr = 0#4 ++ p.cpsrRsvd ++ 0#1 ++ resetModeBits := rfl

/-- Bits 31 to 28, the flags, are clear after reset. -/
theorem getLsbD_cpsr_resetWith_of_ge (p : OpenParams) {k : Nat} (hk : 28 ≤ k) :
    (State.resetWith p).cpsr.getLsbD k = false := by
  rw [cpsr_resetWith, BitVec.getLsbD_append, BitVec.getLsbD_append, BitVec.getLsbD_append]
  simp [show ¬ k < 5 by omega, show ¬ k - 5 < 1 by omega, show ¬ k - 5 - 1 < 22 by omega]

theorem instructionState_resetWith (p : OpenParams) :
    instructionState (State.resetWith p).cpsr = .primary := by
  have h : (State.resetWith p).cpsr.getLsbD 5 = false := by
    rw [cpsr_resetWith, BitVec.getLsbD_append, BitVec.getLsbD_append]
    rfl
  rw [instructionState, h]
  rfl

theorem modeOf_resetWith (p : OpenParams) : modeOf (State.resetWith p).cpsr = some .supervisor := by
  have h : modeField (State.resetWith p).cpsr = resetModeBits := BitVec.extractLsb'_append_eq_right
  rw [modeOf, h]
  rfl

theorem extractLsb'_cpsr_resetWith_rsvd (p : OpenParams) :
    (State.resetWith p).cpsr.extractLsb' 6 22 = p.cpsrRsvd := by
  rw [cpsr_resetWith, BitVec.extractLsb'_append_eq_of_le (by decide),
    BitVec.extractLsb'_append_eq_of_le (by decide)]
  exact BitVec.extractLsb'_append_eq_right

/-- Settles O17: the status word field by field; every other field of the state is p's by definition. -/
theorem resetStateForEveryOpenParameter : Obligations.ResetStateForEveryOpenParameter := by
  intro p
  have hflag : ∀ k, 28 ≤ k → (State.resetWith p).cpsr.getLsbD k = false :=
    fun _ => getLsbD_cpsr_resetWith_of_ge p
  exact ⟨⟨hflag 31 (by decide), hflag 30 (by decide), hflag 29 (by decide), hflag 28 (by decide)⟩,
    instructionState_resetWith p, modeOf_resetWith p, extractLsb'_cpsr_resetWith_rsvd p,
    fun _ => rfl, fun _ => rfl, fun _ => rfl, rfl, rfl, rfl, rfl⟩

theorem resetWith_inv {p : OpenParams} (h : Memory.wf p.imem) : Inv (State.resetWith p) :=
  ⟨h, ⟨.supervisor, modeOf_resetWith p⟩, rfl, fun halt => by
    rw [instructionState_resetWith] at halt
    cases halt⟩

/-- Settles O44: the memory is p's and the status word is the one of `cpsr_resetWith`; `State.reset` is one such
state. -/
theorem resetMeetsTheInvariant : Obligations.ResetMeetsTheInvariant :=
  ⟨fun _ => resetWith_inv, resetWith_inv reset_imem_wf⟩

end Sys2Proof.Machine
end
